-- ==== Sys2Proof/Word.lean ====
section
/-! DEFINITION. The widths and the plain records the rest of the model is written in: bytes and words (spec R8, R9),
the wire records (R59, R62, R63), the control phase (R19) and a host access (R17). -/

namespace Sys2Proof

/-- `u8`: one byte of the input stream (R9). -/
abbrev Byte := BitVec 8
/-- `u16` (R9). -/
abbrev Half := BitVec 16
/-- `u32` (R9); also the width `REG_W` of a host register (R7). -/
abbrev Word := BitVec 32
/-- `u64`: the sync word (R6). -/
abbrev DWord := BitVec 64
/-- A host byte address of `REG_AW = 8` bits (R7, R17). -/
abbrev Addr := BitVec 8

/-- An ObjectRecord: four 32-bit patterns, never interpreted (R12, R22, R62). -/
structure ObjRec where
  x : Word
  y : Word
  z : Word
  v : Word
deriving DecidableEq, Repr, Inhabited

/-- A SignalRecord (R22, R63). -/
structure SigRec where
  snr   : Half
  noise : Half
deriving DecidableEq, Repr, Inhabited

/-- A record as the staging append takes it (R95): one for `OBJ` or one for `SIG`. -/
inductive StagedRec where
  | obj (r : ObjRec)
  | sig (r : SigRec)
deriving DecidableEq, Repr

/-- The eight 32-bit fields after the sync word, in wire order (R59); also the eight `HDR_*` registers (R39). -/
structure Header where
  version  : Word
  pktLen   : Word
  platform : Word
  frameNum : Word
  timeCpu  : Word
  numObj   : Word
  numTlv   : Word
  subframe : Word
deriving DecidableEq, Repr

/-- The control state (R19). -/
inductive Phase where
  | hunt
  | payload
  | emit
  | halt
deriving DecidableEq, Repr

/-- One access at the host port (R17). -/
inductive Access where
  | read  (a : Addr)
  | write (a : Addr) (d : Word)
deriving DecidableEq, Repr

end Sys2Proof
end

