-- ==== Sys2Proof/Config.lean ====
section
/-! DEFINITION. What an implementation fixes: the constants of the wire protocol (spec R6), the two implementation
parameters (R7), and the free values, which no rule gives. -/

namespace Sys2Proof

/-- `MAGIC`, the sync word value (R6). -/
def Config.magic : DWord := 0x0708050603040102#64
/-- `HDR_LEN`, the frame header size in bytes (R6). -/
abbrev Config.hdrLen : Nat := 40
/-- `SYNC_LEN`, the sync word size in bytes (R6). -/
abbrev Config.syncLen : Nat := 8
/-- `TLV_HDR_LEN`, the TLV header size in bytes (R6). -/
abbrev Config.tlvHdrLen : Nat := 8
/-- `TLV_TYPE_MAX`, the largest legal TLV type (R6). -/
abbrev Config.tlvTypeMax : Nat := 20
/-- `TLV_LEN_MAX`, the largest legal TLV length (R6). -/
abbrev Config.tlvLenMax : Nat := 10000
/-- `TYPE_POSVEL`, the ObjectRecord TLV type (R6). -/
abbrev Config.typePosvel : Nat := 1
/-- `TYPE_SIGNAL`, the SignalRecord TLV type (R6). -/
abbrev Config.typeSignal : Nat := 7
/-- `OBJ_REC_LEN`, bytes per ObjectRecord (R6). -/
abbrev Config.objRecLen : Nat := 16
/-- `SIG_REC_LEN`, bytes per SignalRecord (R6). -/
abbrev Config.sigRecLen : Nat := 4

/-- The parameters the source leaves open (R7): `PAYLOAD_MAX` and `MAX_OBJ`. -/
structure Params where
  payloadMax : Nat
  maxObj     : Nat
deriving DecidableEq, Repr

/-- The legal ranges of R7. -/
abbrev Params.legal (p : Params) : Prop :=
  8 ≤ p.payloadMax ∧ p.payloadMax ≤ 2 ^ 32 - 41 ∧ 1 ≤ p.maxObj ∧ p.maxObj ≤ 2 ^ 32 - 1

/-- The spec defaults of R7 (D11, D12). -/
def Params.default : Params := { payloadMax := 16384, maxObj := 1024 }

/-- FREE VALUE. The byte a buffer holds beyond its fill level, which no rule gives (R21, I6). No reachable step
reads one (log entry 6). -/
opaque Config.freeByte : Nat → Byte
/-- FREE VALUE. The ObjectRecord at an index beyond the staging array (log entry 6). -/
opaque Config.freeObj : Nat → ObjRec
/-- FREE VALUE. The SignalRecord at an index beyond the staging array (log entry 6). -/
opaque Config.freeSig : Nat → SigRec

end Sys2Proof
end

