-- ==== Sys2Proof/Syntax.lean ====
section
/-! DEFINITION. The operations of spec/opcode_table.json, one constructor a mnemonic. Rows that share a mnemonic are the
aligned blocks of one range of words (30_encoding.md), so the word such rows match is the constructor's operand
(log entry 9). -/

namespace Sys2Proof

/-- The operations of the block. -/
inductive Instr where
  /-- HEADER_LATCH (R80): a window whose sync word is `MAGIC`, with its eight fields. -/
  | headerLatch (h : Header)
  /-- RESYNC_SHIFT (R81): a window whose 64-bit sync word is not `MAGIC`. -/
  | resyncShift (sync : DWord)
  /-- RESYNC_CAP (R82). -/
  | resyncCap
  /-- LEN_CHECK (R83). -/
  | lenCheck
  /-- HEADER_ACCEPT (R84). -/
  | headerAccept
  /-- TLV_POSVEL (R92): type 1, with the length word. -/
  | tlvPosvel (len : Word)
  /-- TLV_SIGNAL (R93): type 7, with the length word. -/
  | tlvSignal (len : Word)
  /-- TLV_SKIP (R94): an unrecognized type in bounds, with its type and length words. -/
  | tlvSkip (type len : Word)
  /-- TLV_INVALID (R91): a type above 20. -/
  | tlvInvalid (type len : Word)
  /-- TLV_INVALID_LEN (R91): a length above 10000, whatever the type. -/
  | tlvInvalidLen (type len : Word)
  /-- TLV_HDR_SHORT (R90). -/
  | tlvHdrShort
  /-- STAGE_APPEND (R95). -/
  | stageAppend (r : StagedRec)
  /-- TLV_LOOP (R89). -/
  | tlvLoop
  /-- DISCARD (R97): `Discard(i, t, L)`. -/
  | discard (index type len : Word)
  /-- COMMIT (R99): `Commit(OBJ', SIG', short, ovf)`. -/
  | commit (objs : List ObjRec) (sigs : List SigRec) (short ovf : Bool)
  /-- BYTE_IN_HUNT (R77). -/
  | byteInHunt (b : Byte)
  /-- BYTE_IN_PAYLOAD (R88). -/
  | byteInPayload (b : Byte)
  /-- ROW_OUT (R101). -/
  | rowOut
  /-- EMIT_END (R102). -/
  | emitEnd
  /-- REG_READ (R107). -/
  | regRead (a : Addr)
  /-- REG_WRITE (R108). -/
  | regWrite (a : Addr) (d : Word)
  /-- REG_ACCESS_FAULT (R50, R51): an access at a misaligned or unmapped address. -/
  | regAccessFault (acc : Access)
  /-- CTRL_WRITE (R109). -/
  | ctrlWrite (d : Word)
  /-- EVENTS_WRITE (R110). -/
  | eventsWrite (d : Word)
  /-- IRQ_EN_WRITE (R110). -/
  | irqEnWrite (d : Word)
  /-- CYCLE_ID_WRITE (R111). -/
  | cycleIdWrite (d : Word)
  /-- RESYNC_LIMIT_WRITE (R111). -/
  | resyncLimitWrite (d : Word)
  /-- NOP (R112): CMD word 0. -/
  | nop
  /-- ABORT (R113): CMD word 1. -/
  | abort
  /-- RESTART (R114): CMD word 2. -/
  | restart
  /-- CLEAR_STATS (R115): CMD word 3. -/
  | clearStats
  /-- SOFT_RESET (R116): CMD word 4. -/
  | softReset
  /-- CMD_ILLEGAL (R117): any other CMD word. -/
  | cmdIllegal (w : Word)
  /-- RESET (R129): the `rst` input. -/
  | reset
deriving DecidableEq, Repr

end Sys2Proof
end

