-- ==== Sys2Proof/WellFormed.lean ====
section
/-! DEFINITION. Which terms of `Instr` stand for words of the opcode table: the operand ranges of spec R50, R51, R60,
R64, R66, R72 and R73, and the precedence of a length row over a type row (30_encoding.md). -/

namespace Sys2Proof

/-- A mapped host address: 4-aligned and below 0x80 (R50, R51). -/
def mappedAddr (a : Addr) : Bool := decide (a.toNat % 4 = 0) && decide (a.toNat < 0x80)

/-- A TLV length within the bound of R66. -/
def lenInBound (len : Word) : Bool := decide (len.toNat ≤ Config.tlvLenMax)

/-- The operand check of each constructor. -/
def Instr.wellFormed : Instr → Bool
  | .resyncShift sync => decide (sync ≠ Config.magic)
  | .tlvPosvel len => lenInBound len
  | .tlvSignal len => lenInBound len
  | .tlvSkip t len =>
      decide (t.toNat ≤ Config.tlvTypeMax) && decide (t.toNat ≠ Config.typePosvel)
        && decide (t.toNat ≠ Config.typeSignal) && lenInBound len
  | .tlvInvalid t len => decide (Config.tlvTypeMax < t.toNat) && lenInBound len
  | .tlvInvalidLen _ len => !lenInBound len
  | .regRead a => mappedAddr a
  | .regWrite a _ => mappedAddr a && decide (a.toNat ∉ [0x00, 0x04, 0x0C, 0x10, 0x14, 0x18])
  | .regAccessFault (.read a) => !mappedAddr a
  | .regAccessFault (.write a _) => !mappedAddr a
  | .cmdIllegal w => decide (4 < w.toNat)
  | .headerLatch _ | .resyncCap | .lenCheck | .headerAccept | .tlvHdrShort | .stageAppend _ | .tlvLoop
  | .discard _ _ _ | .commit _ _ _ _ | .byteInHunt _ | .byteInPayload _ | .rowOut | .emitEnd
  | .ctrlWrite _ | .eventsWrite _ | .irqEnWrite _ | .cycleIdWrite _ | .resyncLimitWrite _
  | .nop | .abort | .restart | .clearStats | .softReset | .reset => true

end Sys2Proof
end

