-- ==== Sys2Proof/Decode.lean ====
section
/-! DEFINITION. The decoder, total on any bytes, and the encoder after it; the byte order they read and write (spec R47),
the wire formats (R59 to R63), the TLV type map (R64, R66, R67), the host addresses (R26, R50, R51) and the CMD words
(R72, R73). -/

namespace Sys2Proof

/-! ## Byte order (R47) -/

/-- Byte `o` of a sequence; beyond its end, a free value (log entry 6). -/
def byteAt (s : List Byte) (o : Nat) : Byte := (s[o]?).getD (Config.freeByte o)

/-- `le16(s, o)` (R47). -/
def le16 (s : List Byte) (o : Nat) : Half := byteAt s (o + 1) ++ byteAt s o

/-- `le32(s, o)` (R47). -/
def le32 (s : List Byte) (o : Nat) : Word :=
  byteAt s (o + 3) ++ byteAt s (o + 2) ++ byteAt s (o + 1) ++ byteAt s o

/-- `le64(s, o)` (R47): the word at `o + 4` above the word at `o`. -/
def le64 (s : List Byte) (o : Nat) : DWord := le32 s (o + 4) ++ le32 s o

/-- The two bytes `le16` reads, least significant first (R76). -/
def bytes16 (w : Half) : List Byte := [w.extractLsb' 0 8, w.extractLsb' 8 8]

/-- The four bytes `le32` reads, least significant first (R76). -/
def bytes32 (w : Word) : List Byte :=
  [w.extractLsb' 0 8, w.extractLsb' 8 8, w.extractLsb' 16 8, w.extractLsb' 24 8]

/-- The eight bytes `le64` reads, least significant first. -/
def bytes64 (w : DWord) : List Byte := bytes32 (w.extractLsb' 0 32) ++ bytes32 (w.extractLsb' 32 32)

/-! ## The frame header (R59, R60) -/

/-- The sync check (R60, R79): one 64-bit comparison, no mask. -/
def isSync (s : List Byte) : Bool := decide (le64 s 0 = Config.magic)

/-- The eight fields at offsets 8, 12, ..., 36 (R59). -/
def headerAt (s : List Byte) : Header :=
  { version  := le32 s 8
    pktLen   := le32 s 12
    platform := le32 s 16
    frameNum := le32 s 20
    timeCpu  := le32 s 24
    numObj   := le32 s 28
    numTlv   := le32 s 32
    subframe := le32 s 36 }

/-- The 40 bytes of a header (R59, R76). -/
def headerBytes (h : Header) : List Byte :=
  bytes64 Config.magic ++ bytes32 h.version ++ bytes32 h.pktLen ++ bytes32 h.platform ++ bytes32 h.frameNum
    ++ bytes32 h.timeCpu ++ bytes32 h.numObj ++ bytes32 h.numTlv ++ bytes32 h.subframe

/-! ## The records (R62, R63) -/

/-- The ObjectRecord at offset `o` (R62). -/
def objAt (s : List Byte) (o : Nat) : ObjRec :=
  { x := le32 s o, y := le32 s (o + 4), z := le32 s (o + 8), v := le32 s (o + 12) }

/-- The SignalRecord at offset `o` (R63). -/
def sigAt (s : List Byte) (o : Nat) : SigRec := { snr := le16 s o, noise := le16 s (o + 2) }

/-- The 16 bytes of an ObjectRecord (R62, R76). -/
def objBytes (r : ObjRec) : List Byte := bytes32 r.x ++ bytes32 r.y ++ bytes32 r.z ++ bytes32 r.v

/-- The 4 bytes of a SignalRecord (R63, R76). -/
def sigBytes (r : SigRec) : List Byte := bytes16 r.snr ++ bytes16 r.noise

/-! ## The TLV header (R61, R64, R66, R67) -/

/-- What a TLV header selects: the type field is the opcode (R64). -/
inductive TlvOp where
  | posvel     (len : Word)
  | signal     (len : Word)
  | skip       (type len : Word)
  | invalid    (type len : Word)
  | invalidLen (type len : Word)
deriving DecidableEq, Repr

/-- The bounds check first (R66; a length row goes before a type row, 30_encoding.md), then the type map (R64). -/
def decodeTlv (type len : Word) : TlvOp :=
  if Config.tlvLenMax < len.toNat then .invalidLen type len
  else if Config.tlvTypeMax < type.toNat then .invalid type len
  else if type.toNat = Config.typePosvel then .posvel len
  else if type.toNat = Config.typeSignal then .signal len
  else .skip type len

/-- The operation as a row of the opcode table. -/
def TlvOp.toInstr : TlvOp → Instr
  | .posvel len => .tlvPosvel len
  | .signal len => .tlvSignal len
  | .skip t len => .tlvSkip t len
  | .invalid t len => .tlvInvalid t len
  | .invalidLen t len => .tlvInvalidLen t len

/-! ## The CMD word (R72, R73) -/

/-- What a CMD word selects. -/
inductive CmdOp where
  | nop
  | abort
  | restart
  | clearStats
  | softReset
  | illegal (w : Word)
deriving DecidableEq, Repr

/-- The whole 32-bit word is matched (R72); every other word is illegal (R73). -/
def decodeCmd (w : Word) : CmdOp :=
  if w.toNat = 0 then .nop
  else if w.toNat = 1 then .abort
  else if w.toNat = 2 then .restart
  else if w.toNat = 3 then .clearStats
  else if w.toNat = 4 then .softReset
  else .illegal w

/-- The command as a row of the opcode table. -/
def CmdOp.toInstr : CmdOp → Instr
  | .nop => .nop
  | .abort => .abort
  | .restart => .restart
  | .clearStats => .clearStats
  | .softReset => .softReset
  | .illegal w => .cmdIllegal w

/-! ## The host port (R26, R50, R51, R107, R108) -/

/-- A misaligned or unmapped address (R50, R51). -/
def badAddr (a : Addr) : Bool := decide (a.toNat % 4 ≠ 0) || decide (0x80 ≤ a.toNat)

/-- A host read: REG_READ, or REG_ACCESS_FAULT at a bad address. -/
def decodeRead (a : Addr) : Instr := if badAddr a then .regAccessFault (.read a) else .regRead a

/-- A host write: REG_ACCESS_FAULT at a bad address, the row of the one register at its address, the row of the command
at CMD, REG_WRITE at any other register (R108). -/
def decodeWrite (a : Addr) (d : Word) : Instr :=
  if badAddr a then .regAccessFault (.write a d)
  else if a.toNat = 0x00 then .ctrlWrite d
  else if a.toNat = 0x04 then (decodeCmd d).toInstr
  else if a.toNat = 0x0C then .eventsWrite d
  else if a.toNat = 0x10 then .irqEnWrite d
  else if a.toNat = 0x14 then .cycleIdWrite d
  else if a.toNat = 0x18 then .resyncLimitWrite d
  else .regWrite a d

/-! ## The decoder -/

/-- What carries a word to the decoder. The `format` column of the opcode table; a TLV_HEADER_LENGTH row is a pattern on
the second word of a TLV header, and a HOST_READ_OR_WRITE row one on the address of either access. IN_PORT has no bit
pattern: its two rows are told apart by the phase. -/
inductive Format where
  | syncWord
  | tlvHeader
  | cmdWord
  | hostRead
  | hostWrite
  | inPort (p : Phase)
  | outPort
  | resetPin
  | internal
deriving DecidableEq, Repr

/-- Why the decoder rejects. -/
inductive DecodeError where
  /-- The format does not have this many bytes. -/
  | wrongLength (f : Format) (n : Nat)
  /-- No BYTE_IN step exists in phases EMIT and HALT (R44, R85). -/
  | inputNotReady
  /-- The INTERNAL rows have no bit pattern (30_encoding.md). -/
  | noBitPattern
deriving DecidableEq, Repr

/-- A window: the first eight bytes decide (R78); a matching one needs its whole header (R59). -/
def decodeWindow (bs : List Byte) : Except DecodeError Instr :=
  if bs.length < Config.syncLen then .error (.wrongLength .syncWord bs.length)
  else if isSync bs then
    if bs.length = Config.hdrLen then .ok (.headerLatch (headerAt bs))
    else .error (.wrongLength .syncWord bs.length)
  else .ok (.resyncShift (le64 bs 0))

/-- The word of an exact length, or a rejection. -/
def ofLength (f : Format) (n : Nat) (bs : List Byte) (i : Instr) : Except DecodeError Instr :=
  if bs.length = n then .ok i else .error (.wrongLength f bs.length)

/-- The decoder. -/
def decode (f : Format) (bs : List Byte) : Except DecodeError Instr :=
  match f with
  | .syncWord => decodeWindow bs
  | .tlvHeader => ofLength f 8 bs (decodeTlv (le32 bs 0) (le32 bs 4)).toInstr
  | .cmdWord => ofLength f 4 bs (decodeCmd (le32 bs 0)).toInstr
  | .hostRead => ofLength f 1 bs (decodeRead (byteAt bs 0))
  | .hostWrite => ofLength f 5 bs (decodeWrite (byteAt bs 0) (le32 bs 1))
  | .inPort .hunt => ofLength f 1 bs (.byteInHunt (byteAt bs 0))
  | .inPort .payload => ofLength f 1 bs (.byteInPayload (byteAt bs 0))
  | .inPort .emit => .error .inputNotReady
  | .inPort .halt => .error .inputNotReady
  | .outPort => ofLength f 0 bs .rowOut
  | .resetPin => ofLength f 0 bs .reset
  | .internal => .error .noBitPattern

/-! ## The encoder -/

/-- The bytes of a host access as the port carries them: the address byte, then the data word of a write. -/
def accessBytes : Access → List Byte
  | .read a => [a]
  | .write a d => a :: bytes32 d

/-- The format of a host access. -/
def accessFormat : Access → Format
  | .read _ => .hostRead
  | .write _ _ => .hostWrite

/-- The word of an operation and the format that carries it; none for the INTERNAL rows, which have no bit pattern. -/
def encode : Instr → Option (Format × List Byte)
  | .headerLatch h => some (.syncWord, headerBytes h)
  | .resyncShift sync => some (.syncWord, bytes64 sync)
  | .resyncCap | .lenCheck | .headerAccept => none
  | .tlvPosvel len => some (.tlvHeader, bytes32 (BitVec.ofNat 32 Config.typePosvel) ++ bytes32 len)
  | .tlvSignal len => some (.tlvHeader, bytes32 (BitVec.ofNat 32 Config.typeSignal) ++ bytes32 len)
  | .tlvSkip t len => some (.tlvHeader, bytes32 t ++ bytes32 len)
  | .tlvInvalid t len => some (.tlvHeader, bytes32 t ++ bytes32 len)
  | .tlvInvalidLen t len => some (.tlvHeader, bytes32 t ++ bytes32 len)
  | .tlvHdrShort | .stageAppend _ | .tlvLoop | .discard _ _ _ | .commit _ _ _ _ => none
  | .byteInHunt b => some (.inPort .hunt, [b])
  | .byteInPayload b => some (.inPort .payload, [b])
  | .rowOut => some (.outPort, [])
  | .emitEnd => none
  | .regRead a => some (.hostRead, accessBytes (.read a))
  | .regWrite a d => some (.hostWrite, accessBytes (.write a d))
  | .regAccessFault acc => some (accessFormat acc, accessBytes acc)
  | .ctrlWrite d => some (.hostWrite, accessBytes (.write 0x00#8 d))
  | .eventsWrite d => some (.hostWrite, accessBytes (.write 0x0C#8 d))
  | .irqEnWrite d => some (.hostWrite, accessBytes (.write 0x10#8 d))
  | .cycleIdWrite d => some (.hostWrite, accessBytes (.write 0x14#8 d))
  | .resyncLimitWrite d => some (.hostWrite, accessBytes (.write 0x18#8 d))
  | .nop => some (.cmdWord, bytes32 0#32)
  | .abort => some (.cmdWord, bytes32 1#32)
  | .restart => some (.cmdWord, bytes32 2#32)
  | .clearStats => some (.cmdWord, bytes32 3#32)
  | .softReset => some (.cmdWord, bytes32 4#32)
  | .cmdIllegal w => some (.cmdWord, bytes32 w)
  | .reset => some (.resetPin, [])

/-- The row's mnemonic in spec/opcode_table.json. -/
def Instr.mnemonic : Instr → String
  | .headerLatch _ => "HEADER_LATCH"
  | .resyncShift _ => "RESYNC_SHIFT"
  | .resyncCap => "RESYNC_CAP"
  | .lenCheck => "LEN_CHECK"
  | .headerAccept => "HEADER_ACCEPT"
  | .tlvPosvel _ => "TLV_POSVEL"
  | .tlvSignal _ => "TLV_SIGNAL"
  | .tlvSkip _ _ => "TLV_SKIP"
  | .tlvInvalid _ _ => "TLV_INVALID"
  | .tlvInvalidLen _ _ => "TLV_INVALID_LEN"
  | .tlvHdrShort => "TLV_HDR_SHORT"
  | .stageAppend _ => "STAGE_APPEND"
  | .tlvLoop => "TLV_LOOP"
  | .discard _ _ _ => "DISCARD"
  | .commit _ _ _ _ => "COMMIT"
  | .byteInHunt _ => "BYTE_IN_HUNT"
  | .byteInPayload _ => "BYTE_IN_PAYLOAD"
  | .rowOut => "ROW_OUT"
  | .emitEnd => "EMIT_END"
  | .regRead _ => "REG_READ"
  | .regWrite _ _ => "REG_WRITE"
  | .regAccessFault _ => "REG_ACCESS_FAULT"
  | .ctrlWrite _ => "CTRL_WRITE"
  | .eventsWrite _ => "EVENTS_WRITE"
  | .irqEnWrite _ => "IRQ_EN_WRITE"
  | .cycleIdWrite _ => "CYCLE_ID_WRITE"
  | .resyncLimitWrite _ => "RESYNC_LIMIT_WRITE"
  | .nop => "NOP"
  | .abort => "ABORT"
  | .restart => "RESTART"
  | .clearStats => "CLEAR_STATS"
  | .softReset => "SOFT_RESET"
  | .cmdIllegal _ => "CMD_ILLEGAL"
  | .reset => "RESET"

/-! ## The opcode table's bit patterns -/

/-- A row of 32 bits: it applies to a word when `word & mask = pat` (30_encoding.md). -/
structure TableRow where
  mnemonic : String
  pat      : Word
  mask     : Word
deriving DecidableEq, Repr

/-- A row applies to a word. -/
def TableRow.applies (r : TableRow) (w : Word) : Bool := decide (w &&& r.mask = r.pat)

/-- The rows of format TLV_HEADER: patterns of the type word (R64, R66, R67). -/
def tlvTypeRows : List TableRow :=
  [⟨"TLV_POSVEL", 0x00000001#32, 0xffffffff#32⟩,
   ⟨"TLV_SIGNAL", 0x00000007#32, 0xffffffff#32⟩,
   ⟨"TLV_SKIP", 0x00000000#32, 0xffffffff#32⟩,
   ⟨"TLV_SKIP", 0x00000002#32, 0xffffffff#32⟩,
   ⟨"TLV_SKIP", 0x00000003#32, 0xffffffff#32⟩,
   ⟨"TLV_SKIP", 0x00000004#32, 0xffffffff#32⟩,
   ⟨"TLV_SKIP", 0x00000005#32, 0xffffffff#32⟩,
   ⟨"TLV_SKIP", 0x00000006#32, 0xffffffff#32⟩,
   ⟨"TLV_SKIP", 0x00000008#32, 0xffffffff#32⟩,
   ⟨"TLV_SKIP", 0x00000009#32, 0xffffffff#32⟩,
   ⟨"TLV_SKIP", 0x0000000a#32, 0xffffffff#32⟩,
   ⟨"TLV_SKIP", 0x0000000b#32, 0xffffffff#32⟩,
   ⟨"TLV_SKIP", 0x0000000c#32, 0xffffffff#32⟩,
   ⟨"TLV_SKIP", 0x0000000d#32, 0xffffffff#32⟩,
   ⟨"TLV_SKIP", 0x0000000e#32, 0xffffffff#32⟩,
   ⟨"TLV_SKIP", 0x0000000f#32, 0xffffffff#32⟩,
   ⟨"TLV_SKIP", 0x00000010#32, 0xffffffff#32⟩,
   ⟨"TLV_SKIP", 0x00000011#32, 0xffffffff#32⟩,
   ⟨"TLV_SKIP", 0x00000012#32, 0xffffffff#32⟩,
   ⟨"TLV_SKIP", 0x00000013#32, 0xffffffff#32⟩] ++
  [⟨"TLV_SKIP", 0x00000014#32, 0xffffffff#32⟩,
   ⟨"TLV_INVALID", 0x00000015#32, 0xffffffff#32⟩,
   ⟨"TLV_INVALID", 0x00000016#32, 0xfffffffe#32⟩,
   ⟨"TLV_INVALID", 0x00000018#32, 0xfffffff8#32⟩,
   ⟨"TLV_INVALID", 0x00000020#32, 0xffffffe0#32⟩,
   ⟨"TLV_INVALID", 0x00000040#32, 0xffffffc0#32⟩,
   ⟨"TLV_INVALID", 0x00000080#32, 0xffffff80#32⟩,
   ⟨"TLV_INVALID", 0x00000100#32, 0xffffff00#32⟩,
   ⟨"TLV_INVALID", 0x00000200#32, 0xfffffe00#32⟩,
   ⟨"TLV_INVALID", 0x00000400#32, 0xfffffc00#32⟩,
   ⟨"TLV_INVALID", 0x00000800#32, 0xfffff800#32⟩,
   ⟨"TLV_INVALID", 0x00001000#32, 0xfffff000#32⟩,
   ⟨"TLV_INVALID", 0x00002000#32, 0xffffe000#32⟩,
   ⟨"TLV_INVALID", 0x00004000#32, 0xffffc000#32⟩,
   ⟨"TLV_INVALID", 0x00008000#32, 0xffff8000#32⟩,
   ⟨"TLV_INVALID", 0x00010000#32, 0xffff0000#32⟩,
   ⟨"TLV_INVALID", 0x00020000#32, 0xfffe0000#32⟩,
   ⟨"TLV_INVALID", 0x00040000#32, 0xfffc0000#32⟩,
   ⟨"TLV_INVALID", 0x00080000#32, 0xfff80000#32⟩,
   ⟨"TLV_INVALID", 0x00100000#32, 0xfff00000#32⟩] ++
  [⟨"TLV_INVALID", 0x00200000#32, 0xffe00000#32⟩,
   ⟨"TLV_INVALID", 0x00400000#32, 0xffc00000#32⟩,
   ⟨"TLV_INVALID", 0x00800000#32, 0xff800000#32⟩,
   ⟨"TLV_INVALID", 0x01000000#32, 0xff000000#32⟩,
   ⟨"TLV_INVALID", 0x02000000#32, 0xfe000000#32⟩,
   ⟨"TLV_INVALID", 0x04000000#32, 0xfc000000#32⟩,
   ⟨"TLV_INVALID", 0x08000000#32, 0xf8000000#32⟩,
   ⟨"TLV_INVALID", 0x10000000#32, 0xf0000000#32⟩,
   ⟨"TLV_INVALID", 0x20000000#32, 0xe0000000#32⟩,
   ⟨"TLV_INVALID", 0x40000000#32, 0xc0000000#32⟩,
   ⟨"TLV_INVALID", 0x80000000#32, 0x80000000#32⟩]

/-- The rows of format TLV_HEADER_LENGTH: patterns of the length word (R66). -/
def tlvLengthRows : List TableRow :=
  [⟨"TLV_INVALID_LEN", 0x00002711#32, 0xffffffff#32⟩,
   ⟨"TLV_INVALID_LEN", 0x00002712#32, 0xfffffffe#32⟩,
   ⟨"TLV_INVALID_LEN", 0x00002714#32, 0xfffffffc#32⟩,
   ⟨"TLV_INVALID_LEN", 0x00002718#32, 0xfffffff8#32⟩,
   ⟨"TLV_INVALID_LEN", 0x00002720#32, 0xffffffe0#32⟩,
   ⟨"TLV_INVALID_LEN", 0x00002740#32, 0xffffffc0#32⟩,
   ⟨"TLV_INVALID_LEN", 0x00002780#32, 0xffffff80#32⟩,
   ⟨"TLV_INVALID_LEN", 0x00002800#32, 0xfffff800#32⟩,
   ⟨"TLV_INVALID_LEN", 0x00003000#32, 0xfffff000#32⟩,
   ⟨"TLV_INVALID_LEN", 0x00004000#32, 0xffffc000#32⟩,
   ⟨"TLV_INVALID_LEN", 0x00008000#32, 0xffff8000#32⟩,
   ⟨"TLV_INVALID_LEN", 0x00010000#32, 0xffff0000#32⟩,
   ⟨"TLV_INVALID_LEN", 0x00020000#32, 0xfffe0000#32⟩,
   ⟨"TLV_INVALID_LEN", 0x00040000#32, 0xfffc0000#32⟩,
   ⟨"TLV_INVALID_LEN", 0x00080000#32, 0xfff80000#32⟩,
   ⟨"TLV_INVALID_LEN", 0x00100000#32, 0xfff00000#32⟩,
   ⟨"TLV_INVALID_LEN", 0x00200000#32, 0xffe00000#32⟩,
   ⟨"TLV_INVALID_LEN", 0x00400000#32, 0xffc00000#32⟩,
   ⟨"TLV_INVALID_LEN", 0x00800000#32, 0xff800000#32⟩,
   ⟨"TLV_INVALID_LEN", 0x01000000#32, 0xff000000#32⟩] ++
  [⟨"TLV_INVALID_LEN", 0x02000000#32, 0xfe000000#32⟩,
   ⟨"TLV_INVALID_LEN", 0x04000000#32, 0xfc000000#32⟩,
   ⟨"TLV_INVALID_LEN", 0x08000000#32, 0xf8000000#32⟩,
   ⟨"TLV_INVALID_LEN", 0x10000000#32, 0xf0000000#32⟩,
   ⟨"TLV_INVALID_LEN", 0x20000000#32, 0xe0000000#32⟩,
   ⟨"TLV_INVALID_LEN", 0x40000000#32, 0xc0000000#32⟩,
   ⟨"TLV_INVALID_LEN", 0x80000000#32, 0x80000000#32⟩]

/-- The rows of format CMD_WORD (R72, R73). -/
def cmdRows : List TableRow :=
  [⟨"NOP", 0x00000000#32, 0xffffffff#32⟩,
   ⟨"ABORT", 0x00000001#32, 0xffffffff#32⟩,
   ⟨"RESTART", 0x00000002#32, 0xffffffff#32⟩,
   ⟨"CLEAR_STATS", 0x00000003#32, 0xffffffff#32⟩,
   ⟨"SOFT_RESET", 0x00000004#32, 0xffffffff#32⟩,
   ⟨"CMD_ILLEGAL", 0x00000005#32, 0xffffffff#32⟩,
   ⟨"CMD_ILLEGAL", 0x00000006#32, 0xfffffffe#32⟩,
   ⟨"CMD_ILLEGAL", 0x00000008#32, 0xfffffff8#32⟩,
   ⟨"CMD_ILLEGAL", 0x00000010#32, 0xfffffff0#32⟩,
   ⟨"CMD_ILLEGAL", 0x00000020#32, 0xffffffe0#32⟩,
   ⟨"CMD_ILLEGAL", 0x00000040#32, 0xffffffc0#32⟩,
   ⟨"CMD_ILLEGAL", 0x00000080#32, 0xffffff80#32⟩,
   ⟨"CMD_ILLEGAL", 0x00000100#32, 0xffffff00#32⟩,
   ⟨"CMD_ILLEGAL", 0x00000200#32, 0xfffffe00#32⟩,
   ⟨"CMD_ILLEGAL", 0x00000400#32, 0xfffffc00#32⟩,
   ⟨"CMD_ILLEGAL", 0x00000800#32, 0xfffff800#32⟩,
   ⟨"CMD_ILLEGAL", 0x00001000#32, 0xfffff000#32⟩,
   ⟨"CMD_ILLEGAL", 0x00002000#32, 0xffffe000#32⟩,
   ⟨"CMD_ILLEGAL", 0x00004000#32, 0xffffc000#32⟩,
   ⟨"CMD_ILLEGAL", 0x00008000#32, 0xffff8000#32⟩] ++
  [⟨"CMD_ILLEGAL", 0x00010000#32, 0xffff0000#32⟩,
   ⟨"CMD_ILLEGAL", 0x00020000#32, 0xfffe0000#32⟩,
   ⟨"CMD_ILLEGAL", 0x00040000#32, 0xfffc0000#32⟩,
   ⟨"CMD_ILLEGAL", 0x00080000#32, 0xfff80000#32⟩,
   ⟨"CMD_ILLEGAL", 0x00100000#32, 0xfff00000#32⟩,
   ⟨"CMD_ILLEGAL", 0x00200000#32, 0xffe00000#32⟩,
   ⟨"CMD_ILLEGAL", 0x00400000#32, 0xffc00000#32⟩,
   ⟨"CMD_ILLEGAL", 0x00800000#32, 0xff800000#32⟩,
   ⟨"CMD_ILLEGAL", 0x01000000#32, 0xff000000#32⟩,
   ⟨"CMD_ILLEGAL", 0x02000000#32, 0xfe000000#32⟩,
   ⟨"CMD_ILLEGAL", 0x04000000#32, 0xfc000000#32⟩,
   ⟨"CMD_ILLEGAL", 0x08000000#32, 0xf8000000#32⟩,
   ⟨"CMD_ILLEGAL", 0x10000000#32, 0xf0000000#32⟩,
   ⟨"CMD_ILLEGAL", 0x20000000#32, 0xe0000000#32⟩,
   ⟨"CMD_ILLEGAL", 0x40000000#32, 0xc0000000#32⟩,
   ⟨"CMD_ILLEGAL", 0x80000000#32, 0x80000000#32⟩]

/-! ## One word of the table, without its format -/

/-- The format a bare word of `nbits` bits is read in (log entry 10): a byte is a host write's address, 32 bits are a TLV
type word, more are a sync word. -/
def tableFormat (nbits : Nat) : Format :=
  if nbits ≤ 8 then .hostWrite else if nbits ≤ 32 then .tlvHeader else .syncWord

/-- The word's bytes in that format, every bit above `nbits` zero: a write's data, a TLV's length and a header's eight
fields are zeros. -/
def tableBytes (nbits w : Nat) : List Byte :=
  if nbits ≤ 8 then accessBytes (.write (BitVec.ofNat 8 w) 0#32)
  else if nbits ≤ 32 then bytes32 (BitVec.ofNat 32 w) ++ bytes32 0#32
  else bytes64 (BitVec.ofNat 64 w) ++ List.replicate 32 0#8

/-- What the decoder reads from a word of the table. -/
def decodeTableWord (nbits w : Nat) : Option Instr :=
  match decode (tableFormat nbits) (tableBytes nbits w) with
  | .ok i => some i
  | .error _ => none

end Sys2Proof
end

