-- ==== Sys2Proof/Machine/State.lean ====
section
/-! DEFINITION. The state: everything the spec gives the block (R19 to R39), the parameters (R7), the local variables of the
TLV loop (R89), and what the environment agents hold (R14). Plain data. -/

namespace Sys2Proof.Machine

/-- A row of the output port, in the source's column order (R71). -/
structure Row where
  cycle  : Word
  object : Word
  x      : Word
  y      : Word
  z      : Word
  v      : Word
  snr    : Half
  noise  : Half
deriving DecidableEq, Repr

/-- One transfer of the output port: the row and `out_last` (R16, R71). -/
structure Transfer where
  row  : Row
  last : Bool
deriving DecidableEq, Repr

/-- How the TLV loop stands (R89): still running, or left with a result. -/
inductive LoopExit where
  | running
  | committed
  | discarded (index : Nat) (type len : Word)
deriving DecidableEq, Repr

/-- The local variables of the TLV loop (R89): `c`, `i`, `OBJ'`, `SIG'`, `short`, `ovf`, and its result. They live inside
one step; between steps they are at `LoopVars.start` (log entry 7). -/
structure LoopVars where
  c     : Nat
  i     : Nat
  objs  : List ObjRec
  sigs  : List SigRec
  short : Bool
  ovf   : Bool
  exit  : LoopExit
deriving DecidableEq, Repr

/-- The first line of R89. -/
def LoopVars.start : LoopVars :=
  { c := 0, i := 0, objs := [], sigs := [], short := false, ovf := false, exit := .running }

/-- What the host port answered last (R17). -/
inductive HostResp where
  | none
  | read (data : Word) (err : Bool)
  | write (err : Bool)
deriving DecidableEq, Repr

/-- What the Host agent still means to do: an access, or a byte or halfword access that its bus bridge must refuse
(R50). -/
inductive HostOp where
  | access (x : Access)
  | narrow (isWrite : Bool) (a : Addr)
deriving DecidableEq, Repr

/-- The agent that moves (R14): the Source with `in_valid = 1` if it has a byte, the Sink with `out_ready = 1`, the Host
with its next access, Reset with `rst` asserted. -/
inductive Turn where
  | source
  | sink
  | host
  | reset
deriving DecidableEq, Repr

/-- The state of the block and of its environment. -/
structure State where
  /-- PAYLOAD_MAX and MAX_OBJ (R7); no step changes them. -/
  params      : Params
  /-- R19 -/
  phase       : Phase
  /-- HB, the header window (R20) -/
  hb          : List Byte
  /-- PB, the payload buffer (R21) -/
  pb          : List Byte
  /-- OBJ (R22) -/
  obj         : List ObjRec
  /-- SIG (R22) -/
  sig         : List SigRec
  /-- EMIT_N (R23) -/
  emitN       : Nat
  /-- EMIT_IDX (R23) -/
  emitIdx     : Nat
  /-- CUR_CYCLE (R23) -/
  curCycle    : Word
  /-- CTRL (R27): bit 0 EN, bit 1 AUTOINC; the reserved bits 31:2 have no storage -/
  ctrl        : BitVec 2
  /-- EVENTS (R30): bits 8:0; the reserved bits have no storage -/
  events      : BitVec 9
  /-- IRQ_EN (R30): bits 8:0; the reserved bits have no storage -/
  irqEn       : BitVec 9
  /-- CYCLE_ID (R31) -/
  cycleId     : Word
  /-- RESYNC_LIMIT (R31) -/
  resyncLimit : Word
  /-- RESYNC_CNT (R32; RESTART clears it in every phase, log entry 27) -/
  resyncCnt   : Word
  /-- FRAME_CNT (R34) -/
  frameCnt    : Word
  /-- DISCARD_CNT (R34) -/
  discardCnt  : Word
  /-- ROW_CNT (R34) -/
  rowCnt      : Word
  /-- LAST_OUTCOME (R35): bits 6:0; bits 31:7 have no storage and bit 3 reads 0 -/
  lastOutcome : BitVec 7
  /-- LAST_OBJ_LEN (R36) -/
  lastObjLen  : Word
  /-- LAST_SIG_LEN (R36) -/
  lastSigLen  : Word
  /-- LAST_ROWS (R36) -/
  lastRows    : Word
  /-- BAD_TLV_INDEX (R37) -/
  badTlvIndex : Word
  /-- BAD_TLV_TYPE (R37) -/
  badTlvType  : Word
  /-- BAD_TLV_LEN (R37) -/
  badTlvLen   : Word
  /-- LAST_CYCLE (R38) -/
  lastCycle   : Word
  /-- The eight HDR_* registers (R39) -/
  hdr         : Header
  /-- The TLV loop's local variables (R89), the model's own field -/
  loop        : LoopVars
  /-- The Sink's Dataset: the transfers, first one first (R16) -/
  dataset     : List Transfer
  /-- The bytes the Source still offers, first one first (R15) -/
  source      : List Byte
  /-- The Host's remaining accesses, first one first (R17, R141) -/
  script      : List HostOp
  /-- Which agent moves next, the model's own field (R14, I19) -/
  schedule    : List Turn
  /-- The last answer of the host port (R17) -/
  hostResp    : HostResp
deriving DecidableEq, Repr

/-- The header registers at reset (R39, D34). -/
def Header.zero : Header :=
  { version := 0#32, pktLen := 0#32, platform := 0#32, frameNum := 0#32
    timeCpu := 0#32, numObj := 0#32, numTlv := 0#32, subframe := 0#32 }

/-- The machine right after reset (R45, R129). The parameters are the spec defaults (R7, log entry 5); the environment has
nothing to offer and has received nothing (log entry 12). -/
def State.reset : State :=
  { params := Params.default
    phase := .hunt, hb := [], pb := [], obj := [], sig := [], emitN := 0, emitIdx := 0, curCycle := 0#32
    ctrl := 0#2, events := 0#9, irqEn := 0#9, cycleId := 0#32, resyncLimit := 0#32, resyncCnt := 0#32
    frameCnt := 0#32, discardCnt := 0#32, rowCnt := 0#32
    lastOutcome := 0#7, lastObjLen := 0#32, lastSigLen := 0#32, lastRows := 0#32
    badTlvIndex := 0#32, badTlvType := 0#32, badTlvLen := 0#32, lastCycle := 0#32
    hdr := Header.zero, loop := LoopVars.start
    dataset := [], source := [], script := [], schedule := [], hostResp := .none }

/-- Faults. The block has none: "Fatal: none within the core" (R118); every condition it detects is an event bit, an
outcome code or an error response, after which it goes on. So no constructor stands here. -/
inductive Fault where
deriving DecidableEq, Repr

/-- Refusals. -/
inductive Refusal where
  /-- Raised by `exec` for an operation that has no meaning yet. Safe: nothing is claimed of it. No arm answers so. -/
  | notModelled (mnemonic : String)
  /-- Raised by `step` if a port carried bytes the decoder rejects. Safe: the machine stops. No port of this model carries
  such bytes (`Sys2Proof.Laws.fetch_decodes`), so no step answers so. -/
  | undecodable (e : DecodeError)
deriving DecidableEq, Repr

end Sys2Proof.Machine
end

