-- ==== Sys2Proof/Machine/Flags.lean ====
section
/-! DEFINITION. The flags: the EVENTS bits (spec R30), the LAST_OUTCOME fields (R35), the port signals (R44) and the fields of
STATUS (R29). -/

namespace Sys2Proof.Machine

/-- The nine events (R30, R118). -/
inductive Event where
  | frame
  | syncFail
  | tlvBad
  | lenBad
  | desync
  | trunc
  | short
  | ovf
  | cmdErr
deriving DecidableEq, Repr

/-- The bit of an event in EVENTS and IRQ_EN (R30). -/
def Event.bit : Event → Nat
  | .frame => 0
  | .syncFail => 1
  | .tlvBad => 2
  | .lenBad => 3
  | .desync => 4
  | .trunc => 5
  | .short => 6
  | .ovf => 7
  | .cmdErr => 8

/-- The nine-bit word with the one bit of an event. -/
def Event.mask (e : Event) : BitVec 9 := 1#9 <<< e.bit

/-- `EVENTS.<e> <- 1`; no rule of the core clears a bit (R30). -/
def raise (e : Event) (s : State) : State := { s with events := s.events ||| e.mask }

/-- `if cond: EVENTS.<e> <- 1` (R99). -/
def raiseIf (cond : Bool) (e : Event) (s : State) : State := if cond then raise e s else s

/-- An event is pending (R119). -/
def pending (s : State) (e : Event) : Bool := s.events.getLsbD e.bit

/-- CTRL.EN (R27). -/
def enabled (s : State) : Bool := s.ctrl.getLsbD 0

/-- CTRL.AUTOINC (R27). -/
def autoInc (s : State) : Bool := s.ctrl.getLsbD 1

/-- `in_ready` (R44). -/
def inReady (s : State) : Bool := enabled s && (decide (s.phase = .hunt) || decide (s.phase = .payload))

/-- `out_valid` (R44). -/
def outValid (s : State) : Bool := decide (s.phase = .emit)

/-- `irq` (R44, R119). -/
def irq (s : State) : Bool := decide (s.events &&& s.irqEn ≠ 0#9)

/-- The encoding of the phase (R19). -/
def phaseCode : Phase → Nat
  | .hunt => 0
  | .payload => 1
  | .emit => 2
  | .halt => 3

/-- STATUS.SYNCED (R29). -/
def synced (s : State) : Bool := decide (s.phase = .payload) || decide (s.phase = .emit)

/-- STATUS, computed when read (R29): PHASE 1:0, SYNCED 2, IRQ 3, IN_READY 4, OUT_VALID 5, HDR_FILL 13:8. -/
def statusWord (s : State) : Word :=
  BitVec.ofNat 32 (phaseCode s.phase + 4 * (synced s).toNat + 8 * (irq s).toNat + 16 * (inReady s).toNat
    + 32 * (outValid s).toNat + 256 * (s.hb.length % 64))

/-- LAST_OUTCOME of a commit (R35, R99). -/
def commitOutcome (trunc short ovf : Bool) : BitVec 7 :=
  BitVec.ofNat 7 (1 + 16 * trunc.toNat + 32 * short.toNat + 64 * ovf.toNat)

/-- LAST_OUTCOME of TLV_BAD, flags 0 (R35, R97). -/
def outcomeTlvBad : BitVec 7 := 2#7
/-- LAST_OUTCOME of LEN_BAD, flags 0 (R35, R83). -/
def outcomeLenBad : BitVec 7 := 3#7
/-- LAST_OUTCOME of ABORT, flags 0 (R35, R113). -/
def outcomeAbort : BitVec 7 := 4#7

/-- LAST_OUTCOME as a read shows it: bits 2:0 and 6:4, the others 0 (R35). -/
def outcomeWord (s : State) : Word := (s.lastOutcome &&& 0x77#7).setWidth 32

end Sys2Proof.Machine
end

