-- ==== Sys2Proof/Machine/Operands.lean ====
section
/-! DEFINITION. The operand forms: the header quantities N, T and P of the TLV loop (41_tlv_demux.md), the staged arrays and
the row of the output port (spec R100), the host registers by address (R26) and what a read of each gives (R107). -/

namespace Sys2Proof.Machine

/-- `wrap32` (R9). -/
def wrap32 (n : Nat) : Word := BitVec.ofNat 32 n

/-- `sat32` (R9). -/
def sat32 (n : Nat) : Word := BitVec.ofNat 32 (min n (2 ^ 32 - 1))

/-- What the TLV loop is a pure function of (R89): `PB`, `P`, `N`, `T` and MAX_OBJ. -/
structure LoopEnv where
  pb     : List Byte
  P      : Nat
  N      : Nat
  T      : Nat
  maxObj : Nat
deriving DecidableEq, Repr

/-- `P = HDR_PKT_LEN - 40` (R58, R89). -/
def payloadLen (s : State) : Nat := s.hdr.pktLen.toNat - Config.hdrLen

/-- The loop's arguments in a state (R89). -/
def loopEnv (s : State) : LoopEnv :=
  { pb := s.pb, P := payloadLen s, N := s.hdr.numObj.toNat, T := s.hdr.numTlv.toNat, maxObj := s.params.maxObj }

/-- `OBJ[e]` (R100); beyond the array, a free value (log entry 6). -/
def stagedObj (s : State) (e : Nat) : ObjRec := (s.obj[e]?).getD (Config.freeObj e)

/-- `SIG[e]` (R100); beyond the array, a free value (log entry 6). -/
def stagedSig (s : State) (e : Nat) : SigRec := (s.sig[e]?).getD (Config.freeSig e)

/-- The row of index-wise merge (R100). -/
def mergeRow (cycle : Word) (e : Nat) (o : ObjRec) (g : SigRec) : Row :=
  { cycle := cycle, object := wrap32 (e + 1), x := o.x, y := o.y, z := o.z, v := o.v, snr := g.snr, noise := g.noise }

/-- The row the output port presents in phase EMIT, with `out_last` (R100). -/
def currentTransfer (s : State) : Transfer :=
  { row := mergeRow s.curCycle s.emitIdx (stagedObj s s.emitIdx) (stagedSig s s.emitIdx)
    last := decide (s.emitIdx + 1 = s.emitN) }

/-- The row fields of the output port: none outside EMIT, where no rule gives them and the Sink must not read them (R44). -/
def outPort (s : State) : Option Transfer := if outValid s then some (currentTransfer s) else none

/-! ## The host register map (R26) -/

/-- The 32 registers. -/
inductive Reg where
  | ctrl | cmd | status | events | irqEn | cycleId | resyncLimit | resyncCnt
  | pldFill | frameCnt | discardCnt | rowCnt | lastOutcome | lastObjLen | lastSigLen | lastRows
  | badTlvIndex | badTlvType | badTlvLen | lastCycle | hdrVersion | hdrPktLen | hdrPlatform | hdrFrameNum
  | hdrTimeCpu | hdrNumObj | hdrNumTlv | hdrSubframe | magicLo | magicHi | cfgPayloadMax | cfgMaxObj
deriving DecidableEq, Repr

/-- The access kinds (R26). -/
inductive RegAccess where
  | rw
  | ro
  | wo
  | rw1c
deriving DecidableEq, Repr

/-- The registers in address order, one every 4 bytes from 0x00 (R26). -/
def regTable : List Reg :=
  [.ctrl, .cmd, .status, .events, .irqEn, .cycleId, .resyncLimit, .resyncCnt,
   .pldFill, .frameCnt, .discardCnt, .rowCnt, .lastOutcome, .lastObjLen, .lastSigLen, .lastRows] ++
  [.badTlvIndex, .badTlvType, .badTlvLen, .lastCycle, .hdrVersion, .hdrPktLen, .hdrPlatform, .hdrFrameNum,
   .hdrTimeCpu, .hdrNumObj, .hdrNumTlv, .hdrSubframe, .magicLo, .magicHi, .cfgPayloadMax, .cfgMaxObj]

/-- The address of a register (R26). -/
def Reg.addr : Reg → Addr
  | .ctrl => 0x00#8 | .cmd => 0x04#8 | .status => 0x08#8 | .events => 0x0C#8
  | .irqEn => 0x10#8 | .cycleId => 0x14#8 | .resyncLimit => 0x18#8 | .resyncCnt => 0x1C#8
  | .pldFill => 0x20#8 | .frameCnt => 0x24#8 | .discardCnt => 0x28#8 | .rowCnt => 0x2C#8
  | .lastOutcome => 0x30#8 | .lastObjLen => 0x34#8 | .lastSigLen => 0x38#8 | .lastRows => 0x3C#8
  | .badTlvIndex => 0x40#8 | .badTlvType => 0x44#8 | .badTlvLen => 0x48#8 | .lastCycle => 0x4C#8
  | .hdrVersion => 0x50#8 | .hdrPktLen => 0x54#8 | .hdrPlatform => 0x58#8 | .hdrFrameNum => 0x5C#8
  | .hdrTimeCpu => 0x60#8 | .hdrNumObj => 0x64#8 | .hdrNumTlv => 0x68#8 | .hdrSubframe => 0x6C#8
  | .magicLo => 0x70#8 | .magicHi => 0x74#8 | .cfgPayloadMax => 0x78#8 | .cfgMaxObj => 0x7C#8

/-- The access kind of a register (R26). -/
def Reg.access : Reg → RegAccess
  | .ctrl | .irqEn | .cycleId | .resyncLimit => .rw
  | .events => .rw1c
  | .cmd => .wo
  | _ => .ro

/-- The register at an address: none where the access is refused (R50, R51). -/
def regAt (a : Addr) : Option Reg := if badAddr a then none else regTable[a.toNat / 4]?

/-- The value a read of a register gives (R26 to R42, R107): reserved bits 0. -/
def readReg (s : State) : Reg → Word
  | .ctrl => s.ctrl.setWidth 32
  | .cmd => 0#32
  | .status => statusWord s
  | .events => s.events.setWidth 32
  | .irqEn => s.irqEn.setWidth 32
  | .cycleId => s.cycleId
  | .resyncLimit => s.resyncLimit
  | .resyncCnt => s.resyncCnt
  | .pldFill => wrap32 s.pb.length
  | .frameCnt => s.frameCnt
  | .discardCnt => s.discardCnt
  | .rowCnt => s.rowCnt
  | .lastOutcome => outcomeWord s
  | .lastObjLen => s.lastObjLen
  | .lastSigLen => s.lastSigLen
  | .lastRows => s.lastRows
  | .badTlvIndex => s.badTlvIndex
  | .badTlvType => s.badTlvType
  | .badTlvLen => s.badTlvLen
  | .lastCycle => s.lastCycle
  | .hdrVersion => s.hdr.version
  | .hdrPktLen => s.hdr.pktLen
  | .hdrPlatform => s.hdr.platform
  | .hdrFrameNum => s.hdr.frameNum
  | .hdrTimeCpu => s.hdr.timeCpu
  | .hdrNumObj => s.hdr.numObj
  | .hdrNumTlv => s.hdr.numTlv
  | .hdrSubframe => s.hdr.subframe
  | .magicLo => Config.magic.extractLsb' 0 32
  | .magicHi => Config.magic.extractLsb' 32 32
  | .cfgPayloadMax => wrap32 s.params.payloadMax
  | .cfgMaxObj => wrap32 s.params.maxObj

/-- What REG_READ answers (R107): `(data, err)`. -/
def readAt (s : State) (a : Addr) : Word × Bool :=
  match regAt a with
  | none => (0#32, true)
  | some r => (readReg s r, false)

end Sys2Proof.Machine
end

