-- ==== Sys2Proof/Machine/Ops.lean ====
section
/-! DEFINITION. The shared operations: the buffers (spec R20, R21), the discard-and-resync entry, which is the block's only
control transfer on an error (R121), the way back from HALT beside it (R122), and the answers of the host port (R17). -/

namespace Sys2Proof.Machine

/-! ## Buffers -/

/-- `HB <- HB ++ [b]` (R77). -/
def pushHb (b : Byte) (s : State) : State := { s with hb := s.hb ++ [b] }

/-- `HB <- tail(HB)` (R81). -/
def dropHb (s : State) : State := { s with hb := s.hb.tail }

/-- `PB <- PB ++ [b]` (R88). -/
def pushPb (b : Byte) (s : State) : State := { s with pb := s.pb ++ [b] }

/-- `OBJ <- [] ; SIG <- [] ; EMIT_N <- 0 ; EMIT_IDX <- 0 ; phase <- HUNT` (R99 with no row, R102). -/
def clearEmission (s : State) : State :=
  { s with obj := [], sig := [], emitN := 0, emitIdx := 0, phase := .hunt }

/-- `LAST_OBJ_LEN <- 0 ; LAST_SIG_LEN <- 0 ; LAST_ROWS <- 0` and the outcome code, flags 0, of a packet that does not
commit (R35, R36). -/
def recordOutcome (code : BitVec 7) (s : State) : State :=
  { s with lastOutcome := code, lastObjLen := 0#32, lastSigLen := 0#32, lastRows := 0#32 }

/-! ## Discard and resync: entry and return (R121, R122) -/

/-- The discard-and-resync entry (R121): it raises the event, counts the discard, records the outcome, discards the whole
in-flight packet and goes to HUNT with an empty window. One entry for TLV_BAD (R97) and LEN_BAD (R83; log entry 14). -/
def enterDiscard (event : Event) (code : BitVec 7) (s : State) : State :=
  let s := recordOutcome code (raise event s)
  { s with discardCnt := wrap32 (s.discardCnt.toNat + 1), hb := [], pb := [], obj := [], sig := [], phase := .hunt }

/-! ## The host port's answers (R17) -/

/-- A read answers `(data, err)`. -/
def answerRead (data : Word) (err : Bool) (s : State) : State := { s with hostResp := .read data err }

/-- A write answers `err`. -/
def answerWrite (err : Bool) (s : State) : State := { s with hostResp := .write err }

/-- The answer of a refused access: `err = 1`, and data 0 for a read (R50, R51). -/
def answerFault (acc : Access) (s : State) : State :=
  match acc with
  | .read _ => answerRead 0#32 true s
  | .write _ _ => answerWrite true s

end Sys2Proof.Machine
end

