-- ==== Sys2Proof/Machine/Accumulator.lean ====
section
/-! DEFINITION. COMMIT, ROW_OUT and EMIT_END: the point-cloud accumulator and the row output (spec R99 to R104). -/

namespace Sys2Proof.Machine

/-- What every commit records, whatever its row count (R99): the events, FRAME_CNT, the LAST_* registers, the cycle id
(R103), and the emptied payload buffer. -/
def commitRecord (objs : List ObjRec) (sigs : List SigRec) (short ovf : Bool) (s : State) : State :=
  let trunc := decide (objs.length ≠ sigs.length)
  let s := raiseIf ovf .ovf (raiseIf short .short (raiseIf trunc .trunc (raise .frame s)))
  { s with
    frameCnt    := wrap32 (s.frameCnt.toNat + 1)
    lastOutcome := commitOutcome trunc short ovf
    lastObjLen  := wrap32 objs.length
    lastSigLen  := wrap32 sigs.length
    lastRows    := wrap32 (min objs.length sigs.length)
    curCycle    := s.cycleId
    lastCycle   := s.cycleId
    cycleId     := if autoInc s then wrap32 (s.cycleId.toNat + 1) else s.cycleId
    pb          := [] }

/-- Applying `Commit(OBJ', SIG', short, ovf)` (R99): the rows are fixed; with no row the staging arrays are cleared at
once. -/
def applyCommit (objs : List ObjRec) (sigs : List SigRec) (short ovf : Bool) (s : State) : State :=
  let s := commitRecord objs sigs short ovf s
  let n := min objs.length sigs.length
  if 0 < n then { s with obj := objs, sig := sigs, emitN := n, emitIdx := 0, phase := .emit }
  else clearEmission s

/-- One row transfer, in phase EMIT (R101): the Sink has the row, ROW_CNT and EMIT_IDX go on, and the last row ends the
emission (R102). -/
def transferRow (s : State) : State :=
  let s := { s with
    dataset := s.dataset ++ [currentTransfer s]
    rowCnt  := wrap32 (s.rowCnt.toNat + 1)
    emitIdx := s.emitIdx + 1 }
  if s.emitIdx = s.emitN then clearEmission s else s

/-- COMMIT (R99). -/
def execCommit (objs : List ObjRec) (sigs : List SigRec) (short ovf : Bool) (s : State) :
    Host.Outcome State Fault Refusal :=
  .next (applyCommit objs sigs short ovf s)

/-- ROW_OUT (R101). Outside EMIT no transfer exists and nothing changes (log entry 2). -/
def execRowOut (s : State) : Host.Outcome State Fault Refusal :=
  if outValid s then .next (transferRow s) else .next s

/-- EMIT_END (R102). -/
def execEmitEnd (s : State) : Host.Outcome State Fault Refusal := .next (clearEmission s)

end Sys2Proof.Machine
end

