-- ==== Sys2Proof/Machine/TlvDemux.lean ====
section
/-! DEFINITION. The packet reassembler and the TLV demultiplexer (spec R88 to R97). The loop's operations act on its local
variables (R89), in the notation of 41_tlv_demux.md: `c`, `i`, `OBJ'`, `SIG'`, `short`, `ovf`. -/

namespace Sys2Proof.Machine

/-! ## Staging (R95) -/

/-- `append(OBJ', r)` (R95): past MAX_OBJ records the record is dropped and `ovf` set. -/
def appendObj (maxObj : Nat) (r : ObjRec) (v : LoopVars) : LoopVars :=
  if v.objs.length < maxObj then { v with objs := v.objs ++ [r] } else { v with ovf := true }

/-- `append(SIG', r)` (R95). -/
def appendSig (maxObj : Nat) (r : SigRec) (v : LoopVars) : LoopVars :=
  if v.sigs.length < maxObj then { v with sigs := v.sigs ++ [r] } else { v with ovf := true }

/-- `append` for a record of either array (R95). -/
def appendStaged (maxObj : Nat) : StagedRec → LoopVars → LoopVars
  | .obj r, v => appendObj maxObj r v
  | .sig r, v => appendSig maxObj r v

/-- `for j in 0 .. k - 1: append(OBJ', the record at c + 16 j)` (R92), with `base = c`. -/
def stageObjs (e : LoopEnv) (base : Nat) : Nat → LoopVars → LoopVars
  | 0, v => v
  | k + 1, v => appendObj e.maxObj (objAt e.pb (base + Config.objRecLen * k)) (stageObjs e base k v)

/-- `for j in 0 .. k - 1: append(SIG', the record at c + 4 j)` (R93), with `base = c`. -/
def stageSigs (e : LoopEnv) (base : Nat) : Nat → LoopVars → LoopVars
  | 0, v => v
  | k + 1, v => appendSig e.maxObj (sigAt e.pb (base + Config.sigRecLen * k)) (stageSigs e base k v)

/-! ## One TLV (R90 to R94) -/

/-- `if size > rem: short <- 1 ; c <- c + min(size, rem)`: the cursor passes a block of `size` bytes, clamped to the payload
(R92, R93, R94). -/
def advance (e : LoopEnv) (size : Nat) (v : LoopVars) : LoopVars :=
  let rem := e.P - v.c
  { v with short := v.short || decide (rem < size), c := v.c + min size rem }

/-- R92, with the cursor past the TLV header. -/
def posvelBody (e : LoopEnv) (v : LoopVars) : LoopVars :=
  advance e (e.N * Config.objRecLen) (stageObjs e v.c (min e.N ((e.P - v.c) / Config.objRecLen)) v)

/-- R93, with the cursor past the TLV header. -/
def signalBody (e : LoopEnv) (v : LoopVars) : LoopVars :=
  advance e (e.N * Config.sigRecLen) (stageSigs e v.c (min e.N ((e.P - v.c) / Config.sigRecLen)) v)

/-- R94, with the cursor past the TLV header. -/
def skipBody (e : LoopEnv) (len : Word) (v : LoopVars) : LoopVars := advance e len.toNat v

/-- `return Discard(i, t, L)` (R91). -/
def leaveBad (type len : Word) (v : LoopVars) : LoopVars := { v with exit := .discarded v.i type len }

/-- `short <- 1`, leave the loop and commit what is staged (R90). -/
def leaveShort (v : LoopVars) : LoopVars := { v with short := true, exit := .committed }

/-! ## The loop (R89) -/

/-- `c <- c + TLV_HDR_LEN` (R89). -/
def passHeader (v : LoopVars) : LoopVars := { v with c := v.c + Config.tlvHdrLen }

/-- `i <- i + 1` (R89). -/
def nextIndex (v : LoopVars) : LoopVars := { v with i := v.i + 1 }

/-- The TLV header at the cursor (R61, R89). -/
def fetchTlv (e : LoopEnv) (v : LoopVars) : TlvOp := decodeTlv (le32 e.pb v.c) (le32 e.pb (v.c + 4))

/-- One turn of the loop body for a TLV header that is wholly there (R89). -/
def runTlv (e : LoopEnv) (op : TlvOp) (v : LoopVars) : LoopVars :=
  match op with
  | .posvel _ => nextIndex (posvelBody e (passHeader v))
  | .signal _ => nextIndex (signalBody e (passHeader v))
  | .skip _ len => nextIndex (skipBody e len (passHeader v))
  | .invalid t len => leaveBad t len v
  | .invalidLen t len => leaveBad t len v

/-- One test of the loop's condition and, if it holds, one turn of its body (R89, R90). -/
def loopTurn (e : LoopEnv) (v : LoopVars) : LoopVars :=
  if v.i < e.T then
    if e.P - v.c < Config.tlvHdrLen then leaveShort v else runTlv e (fetchTlv e v) v
  else { v with exit := .committed }

/-- The loop, at most `n` turns. -/
def loopFrom (e : LoopEnv) : Nat → LoopVars → LoopVars
  | 0, v => v
  | n + 1, v => if v.exit = .running then loopFrom e n (loopTurn e v) else v

/-- The TLV loop (R89). Every turn that does not leave the loop advances the cursor by at least 8, so `P div 8 + 1` turns
are enough (R96; log entry 20). -/
def tlvLoop (e : LoopEnv) : LoopVars := loopFrom e (e.P / Config.tlvHdrLen + 1) LoopVars.start

/-! ## Outcomes (R88, R97, R99) -/

/-- Applying `Discard(i, t, L)` (R97): the discard entry of R121 and the three BAD_TLV_* registers. -/
def applyDiscard (index type len : Word) (s : State) : State :=
  let s := enterDiscard .tlvBad outcomeTlvBad s
  { s with badTlvIndex := index, badTlvType := type, badTlvLen := len }

/-- Applying the loop's result (R88). -/
def applyExit (v : LoopVars) (s : State) : State :=
  match v.exit with
  | .discarded i t len => applyDiscard (wrap32 i) t len s
  | .committed => applyCommit v.objs v.sigs v.short v.ovf s
  | .running => applyCommit v.objs v.sigs v.short v.ovf s

/-- The payload is complete: run the loop and apply its outcome, in one step (R84, R88). The loop's variables are local to
the step. -/
def finishPacket (s : State) : State :=
  let s := applyExit (tlvLoop (loopEnv s)) s
  { s with loop := LoopVars.start }

/-- The effect of BYTE_IN in phase PAYLOAD (R88). -/
def takePayloadByte (b : Byte) (s : State) : State :=
  let s := pushPb b s
  if s.pb.length = payloadLen s then finishPacket s else s

/-! ## The meanings -/

/-- TLV_POSVEL (R92). The length word has passed R91 and is otherwise unused (R65). -/
def execTlvPosvel (_len : Word) (s : State) : Host.Outcome State Fault Refusal :=
  .next { s with loop := posvelBody (loopEnv s) s.loop }

/-- TLV_SIGNAL (R93). -/
def execTlvSignal (_len : Word) (s : State) : Host.Outcome State Fault Refusal :=
  .next { s with loop := signalBody (loopEnv s) s.loop }

/-- TLV_SKIP (R94). -/
def execTlvSkip (_type len : Word) (s : State) : Host.Outcome State Fault Refusal :=
  .next { s with loop := skipBody (loopEnv s) len s.loop }

/-- TLV_INVALID (R91): a type above 20. -/
def execTlvInvalid (type len : Word) (s : State) : Host.Outcome State Fault Refusal :=
  .next { s with loop := leaveBad type len s.loop }

/-- TLV_INVALID_LEN (R91): a length above 10000. -/
def execTlvInvalidLen (type len : Word) (s : State) : Host.Outcome State Fault Refusal :=
  .next { s with loop := leaveBad type len s.loop }

/-- TLV_HDR_SHORT (R90). -/
def execTlvHdrShort (s : State) : Host.Outcome State Fault Refusal :=
  .next { s with loop := leaveShort s.loop }

/-- STAGE_APPEND (R95). -/
def execStageAppend (r : StagedRec) (s : State) : Host.Outcome State Fault Refusal :=
  .next { s with loop := appendStaged s.params.maxObj r s.loop }

/-- TLV_LOOP (R89): the loop runs from its start values and its result stands in `loop.exit`; R88 and R84 apply it. -/
def execTlvLoop (s : State) : Host.Outcome State Fault Refusal :=
  .next { s with loop := tlvLoop (loopEnv s) }

/-- DISCARD (R97). -/
def execDiscard (index type len : Word) (s : State) : Host.Outcome State Fault Refusal :=
  .next (applyDiscard index type len s)

/-- BYTE_IN in phase PAYLOAD (R88). Without readiness no such step exists and nothing changes (R85, log entry 2). -/
def execByteInPayload (b : Byte) (s : State) : Host.Outcome State Fault Refusal :=
  if enabled s && decide (s.phase = .payload) then .next (takePayloadByte b s) else .next s

end Sys2Proof.Machine
end

