-- ==== Sys2Proof/Machine/HeaderSync.lean ====
section
/-! DEFINITION. The frame header decoder and the resynchronizer (spec R77 to R85). -/

namespace Sys2Proof.Machine

/-- The header is accepted (R84): an empty payload is already complete, any other is collected. -/
def acceptHeader (s : State) : State :=
  let s := { s with pb := [] }
  if s.hdr.pktLen.toNat = Config.hdrLen then finishPacket s else { s with phase := .payload }

/-- LEN_BAD's condition (R83), an unsigned comparison. -/
def lengthBad (s : State) : Bool :=
  decide (s.hdr.pktLen.toNat < Config.hdrLen) || decide (s.params.payloadMax < s.hdr.pktLen.toNat - Config.hdrLen)

/-- The packet-length check (R83). -/
def checkLength (s : State) : State :=
  if lengthBad s then enterDiscard .lenBad outcomeLenBad s else acceptHeader s

/-- The header latch (R80), then the packet-length check. -/
def latchHeader (h : Header) (s : State) : State :=
  checkLength { s with hdr := h, hb := [], resyncCnt := 0#32 }

/-- The resync cap's condition (R82). -/
def capReached (s : State) : Bool :=
  decide (s.resyncLimit ≠ 0#32) && decide (s.resyncLimit.toNat ≤ s.resyncCnt.toNat)

/-- The resync cap (R82). -/
def checkCap (s : State) : State := if capReached s then raise .desync { s with phase := .halt } else s

/-- The resync shift (R81), then the cap check. -/
def shiftWindow (s : State) : State :=
  let s := dropHb s
  checkCap (raise .syncFail { s with resyncCnt := sat32 (s.resyncCnt.toNat + 1) })

/-- Window evaluation (R78): only the sync word decides. -/
def evaluateWindow (s : State) : State :=
  if isSync s.hb then latchHeader (headerAt s.hb) s else shiftWindow s

/-- The effect of BYTE_IN in phase HUNT (R77). -/
def takeHeaderByte (b : Byte) (s : State) : State :=
  let s := pushHb b s
  if s.hb.length = Config.hdrLen then evaluateWindow s else s

/-! ## The meanings -/

/-- BYTE_IN in phase HUNT (R77). Without readiness no such step exists and nothing changes (R85, log entry 2). -/
def execByteInHunt (b : Byte) (s : State) : Host.Outcome State Fault Refusal :=
  if enabled s && decide (s.phase = .hunt) then .next (takeHeaderByte b s) else .next s

/-- HEADER_LATCH (R80). -/
def execHeaderLatch (h : Header) (s : State) : Host.Outcome State Fault Refusal := .next (latchHeader h s)

/-- RESYNC_SHIFT (R81): the failed sync word itself is not used. -/
def execResyncShift (_sync : DWord) (s : State) : Host.Outcome State Fault Refusal := .next (shiftWindow s)

/-- RESYNC_CAP (R82). -/
def execResyncCap (s : State) : Host.Outcome State Fault Refusal := .next (checkCap s)

/-- LEN_CHECK (R83). -/
def execLenCheck (s : State) : Host.Outcome State Fault Refusal := .next (checkLength s)

/-- HEADER_ACCEPT (R84). -/
def execHeaderAccept (s : State) : Host.Outcome State Fault Refusal := .next (acceptHeader s)

end Sys2Proof.Machine
end

