-- ==== Sys2Proof/Machine/ResetOp.lean ====
section
/-! DEFINITION. RESET (spec R129, R130) and the part of it that SOFT_RESET shares (R116). -/

namespace Sys2Proof.Machine

/-- Every piece of the core's state but the four configuration registers goes to its reset value (R45, R116). The
parameters are constants, and the environment agents' state lies outside the core (R130). -/
def resetDatapath (s : State) : State :=
  { s with
    phase := .hunt, hb := [], pb := [], obj := [], sig := [], emitN := 0, emitIdx := 0, curCycle := 0#32
    events := 0#9, resyncCnt := 0#32, frameCnt := 0#32, discardCnt := 0#32, rowCnt := 0#32
    lastOutcome := 0#7, lastObjLen := 0#32, lastSigLen := 0#32, lastRows := 0#32
    badTlvIndex := 0#32, badTlvType := 0#32, badTlvLen := 0#32, lastCycle := 0#32
    hdr := Header.zero, loop := LoopVars.start }

/-- CTRL, IRQ_EN, CYCLE_ID and RESYNC_LIMIT at their reset values (R27, R30, R31): what RESET does beyond SOFT_RESET
(R129). -/
def resetConfiguration (s : State) : State :=
  { s with ctrl := 0#2, irqEn := 0#9, cycleId := 0#32, resyncLimit := 0#32 }

/-- RESET (R129): always enabled, in any state. -/
def execReset (s : State) : Host.Outcome State Fault Refusal := .next (resetConfiguration (resetDatapath s))

end Sys2Proof.Machine
end

