-- ==== Sys2Proof/Machine/HostOps.lean ====
section
/-! DEFINITION. The host register operations and the commands (spec R107 to R117). -/

namespace Sys2Proof.Machine

/-! ## Register writes (R109 to R111) -/

/-- `CTRL.EN <- data[0] ; CTRL.AUTOINC <- data[1]` (R109). -/
def writeCtrl (d : Word) (s : State) : State := { s with ctrl := d.extractLsb' 0 2 }

/-- `EVENTS <- EVENTS & ~data[8:0]` (R110). -/
def writeEvents (d : Word) (s : State) : State := { s with events := s.events &&& ~~~(d.extractLsb' 0 9) }

/-- `IRQ_EN <- data[8:0]` (R110). -/
def writeIrqEn (d : Word) (s : State) : State := { s with irqEn := d.extractLsb' 0 9 }

/-- `CYCLE_ID <- data` (R111). -/
def writeCycleId (d : Word) (s : State) : State := { s with cycleId := d }

/-- `RESYNC_LIMIT <- data` (R111). -/
def writeResyncLimit (d : Word) (s : State) : State := { s with resyncLimit := d }

/-! ## Commands (R112 to R117) -/

/-- ABORT by phase (R113, D24). -/
def abortPacket (s : State) : State :=
  match s.phase with
  | .hunt => { s with hb := [], resyncCnt := 0#32 }
  | .payload => { recordOutcome outcomeAbort s with pb := [], phase := .hunt, resyncCnt := 0#32 }
  | .emit => s
  | .halt => { s with hb := [], resyncCnt := 0#32, phase := .hunt }

/-- RESTART (R114, R122): the way back from HALT, where HB keeps its bytes; in every phase it clears RESYNC_CNT (R32, R125,
R133, D20). DESIGN CHOICE: R114's `else: no effect` is read as saying nothing against that clearing (log entry 27). -/
def restartSearch (s : State) : State :=
  { s with phase := if s.phase = .halt then .hunt else s.phase, resyncCnt := 0#32 }

/-- CLEAR_STATS (R115). -/
def clearCounters (s : State) : State := { s with frameCnt := 0#32, discardCnt := 0#32, rowCnt := 0#32 }

/-- A CMD word's effect (R108, R112 to R117). -/
def runCommand : CmdOp → State → State
  | .nop, s => s
  | .abort, s => abortPacket s
  | .restart, s => restartSearch s
  | .clearStats, s => clearCounters s
  | .softReset, s => resetDatapath s
  | .illegal _, s => raise .cmdErr s

/-- The effect of a write at a register (R53, R108); a read-only register ignores it. -/
def writeReg (r : Reg) (d : Word) (s : State) : State :=
  match r with
  | .ctrl => writeCtrl d s
  | .cmd => runCommand (decodeCmd d) s
  | .events => writeEvents d s
  | .irqEn => writeIrqEn d s
  | .cycleId => writeCycleId d s
  | .resyncLimit => writeResyncLimit d s
  | _ => s

/-! ## The meanings -/

/-- REG_READ (R107): no side effect (R52); the port answers data and err. -/
def execRegRead (a : Addr) (s : State) : Host.Outcome State Fault Refusal :=
  .next (answerRead (readAt s a).1 (readAt s a).2 s)

/-- REG_WRITE (R108). -/
def execRegWrite (a : Addr) (d : Word) (s : State) : Host.Outcome State Fault Refusal :=
  match regAt a with
  | none => .next (answerWrite true s)
  | some r => .next (answerWrite false (writeReg r d s))

/-- REG_ACCESS_FAULT (R50, R51): `err = 1`, no effect. -/
def execRegAccessFault (acc : Access) (s : State) : Host.Outcome State Fault Refusal := .next (answerFault acc s)

/-- CTRL_WRITE (R109). -/
def execCtrlWrite (d : Word) (s : State) : Host.Outcome State Fault Refusal := .next (answerWrite false (writeCtrl d s))

/-- EVENTS_WRITE (R110). -/
def execEventsWrite (d : Word) (s : State) : Host.Outcome State Fault Refusal :=
  .next (answerWrite false (writeEvents d s))

/-- IRQ_EN_WRITE (R110). -/
def execIrqEnWrite (d : Word) (s : State) : Host.Outcome State Fault Refusal :=
  .next (answerWrite false (writeIrqEn d s))

/-- CYCLE_ID_WRITE (R111). -/
def execCycleIdWrite (d : Word) (s : State) : Host.Outcome State Fault Refusal :=
  .next (answerWrite false (writeCycleId d s))

/-- RESYNC_LIMIT_WRITE (R111). -/
def execResyncLimitWrite (d : Word) (s : State) : Host.Outcome State Fault Refusal :=
  .next (answerWrite false (writeResyncLimit d s))

/-- NOP (R112): no effect, `err = 0`. -/
def execNop (s : State) : Host.Outcome State Fault Refusal := .next (answerWrite false s)

/-- ABORT (R113). -/
def execAbort (s : State) : Host.Outcome State Fault Refusal := .next (answerWrite false (abortPacket s))

/-- RESTART (R114; in every phase it clears RESYNC_CNT, R32, R125, R133, log entry 27). -/
def execRestart (s : State) : Host.Outcome State Fault Refusal := .next (answerWrite false (restartSearch s))

/-- CLEAR_STATS (R115). -/
def execClearStats (s : State) : Host.Outcome State Fault Refusal := .next (answerWrite false (clearCounters s))

/-- SOFT_RESET (R116). -/
def execSoftReset (s : State) : Host.Outcome State Fault Refusal := .next (answerWrite false (resetDatapath s))

/-- CMD_ILLEGAL (R117): the access succeeds, the command raises CMD_ERR. -/
def execCmdIllegal (_w : Word) (s : State) : Host.Outcome State Fault Refusal :=
  .next (answerWrite false (raise .cmdErr s))

end Sys2Proof.Machine
end

