-- ==== Sys2Proof/Machine/Dispatch.lean ====
section
/-! DEFINITION. One arm a constructor of `Instr`. -/

namespace Sys2Proof.Machine

def exec (i : Instr) (s : State) : Host.Outcome State Fault Refusal :=
  match i with
  | .headerLatch h => Sys2Proof.Machine.execHeaderLatch h s
  | .resyncShift sync => Sys2Proof.Machine.execResyncShift sync s
  | .resyncCap => Sys2Proof.Machine.execResyncCap s
  | .lenCheck => Sys2Proof.Machine.execLenCheck s
  | .headerAccept => Sys2Proof.Machine.execHeaderAccept s
  | .tlvPosvel len => Sys2Proof.Machine.execTlvPosvel len s
  | .tlvSignal len => Sys2Proof.Machine.execTlvSignal len s
  | .tlvSkip t len => Sys2Proof.Machine.execTlvSkip t len s
  | .tlvInvalid t len => Sys2Proof.Machine.execTlvInvalid t len s
  | .tlvInvalidLen t len => Sys2Proof.Machine.execTlvInvalidLen t len s
  | .tlvHdrShort => Sys2Proof.Machine.execTlvHdrShort s
  | .stageAppend r => Sys2Proof.Machine.execStageAppend r s
  | .tlvLoop => Sys2Proof.Machine.execTlvLoop s
  | .discard k t len => Sys2Proof.Machine.execDiscard k t len s
  | .commit os gs short ovf => Sys2Proof.Machine.execCommit os gs short ovf s
  | .byteInHunt b => Sys2Proof.Machine.execByteInHunt b s
  | .byteInPayload b => Sys2Proof.Machine.execByteInPayload b s
  | .rowOut => Sys2Proof.Machine.execRowOut s
  | .emitEnd => Sys2Proof.Machine.execEmitEnd s
  | .regRead a => Sys2Proof.Machine.execRegRead a s
  | .regWrite a d => Sys2Proof.Machine.execRegWrite a d s
  | .regAccessFault acc => Sys2Proof.Machine.execRegAccessFault acc s
  | .ctrlWrite d => Sys2Proof.Machine.execCtrlWrite d s
  | .eventsWrite d => Sys2Proof.Machine.execEventsWrite d s
  | .irqEnWrite d => Sys2Proof.Machine.execIrqEnWrite d s
  | .cycleIdWrite d => Sys2Proof.Machine.execCycleIdWrite d s
  | .resyncLimitWrite d => Sys2Proof.Machine.execResyncLimitWrite d s
  | .nop => Sys2Proof.Machine.execNop s
  | .abort => Sys2Proof.Machine.execAbort s
  | .restart => Sys2Proof.Machine.execRestart s
  | .clearStats => Sys2Proof.Machine.execClearStats s
  | .softReset => Sys2Proof.Machine.execSoftReset s
  | .cmdIllegal w => Sys2Proof.Machine.execCmdIllegal w s
  | .reset => Sys2Proof.Machine.execReset s

end Sys2Proof.Machine
end

