-- ==== Sys2Proof/Machine/Fetch.lean ====
section
/-! DEFINITION. The next port transaction: which agent moves (spec R14), whether its port transfers (R15, R16, R44), the
bytes the port then carries to the decoder, and what the environment keeps afterwards (R85, R130). Also the placement of
one instruction's word for the very next step. -/

namespace Sys2Proof.Machine

/-- What a port carries to the decoder. -/
structure PortWord where
  format : Format
  bytes  : List Byte
deriving DecidableEq, Repr

/-- The transaction of an agent's turn: none where the agent has nothing to offer or its port is not ready (R15, R16,
R85). -/
def fetchTurn (s : State) : Turn → Option PortWord
  | .source =>
      match s.source with
      | [] => none
      | b :: _ => if inReady s then some { format := .inPort s.phase, bytes := [b] } else none
  | .sink => if outValid s then some { format := .outPort, bytes := [] } else none
  | .host =>
      match s.script with
      | .access x :: _ => some { format := accessFormat x, bytes := accessBytes x }
      | _ => none
  | .reset => some { format := .resetPin, bytes := [] }

/-- The next transaction. -/
def fetch (s : State) : Option PortWord :=
  match s.schedule with
  | [] => none
  | t :: _ => fetchTurn s t

/-- The environment after a transfer: the turn is over, and the Source's byte or the Host's access is taken. -/
def consume (s : State) : State :=
  match s.schedule with
  | .source :: ts => { s with schedule := ts, source := s.source.tail }
  | .host :: ts => { s with schedule := ts, script := s.script.tail }
  | _ => { s with schedule := s.schedule.tail }

/-- A turn without a transfer: an offered byte stays offered (R85). A byte or halfword access is refused by the bus bridge
with `err = 1` and never reaches the port (R50). -/
def passTurn (s : State) : State :=
  match s.schedule, s.script with
  | .host :: ts, .narrow isWrite _ :: ops =>
      { s with schedule := ts, script := ops, hostResp := if isWrite then .write true else .read 0#32 true }
  | _, _ => { s with schedule := s.schedule.tail }

/-! ## Placing one word of the opcode table -/

/-- CTRL.EN = 1, the rest of CTRL kept. -/
def enableInput (s : State) : State := { s with ctrl := s.ctrl ||| 1#2 }

/-- A window that lacks only the last byte of `bs`: HUNT, input on, and the Source about to give that byte. -/
def placeWindow (bs : List Byte) (s : State) : State :=
  { enableInput s with
    phase := .hunt, hb := bs.dropLast, pb := [], obj := [], sig := [], emitN := 0, emitIdx := 0, loop := LoopVars.start
    source := bs.getLast?.toList ++ s.source, schedule := .source :: s.schedule }

/-- A payload of one TLV that lacks only the last byte of its header `bs`: PAYLOAD, HDR_PKT_LEN the header and the TLV
header, HDR_NUM_TLV 1, input on, and the Source about to give that byte. -/
def placeTlv (bs : List Byte) (s : State) : State :=
  { enableInput s with
    phase := .payload, hb := [], pb := bs.dropLast, obj := [], sig := [], emitN := 0, emitIdx := 0
    hdr := { s.hdr with pktLen := wrap32 (Config.hdrLen + bs.length), numTlv := 1#32 }, loop := LoopVars.start
    source := bs.getLast?.toList ++ s.source, schedule := .source :: s.schedule }

/-- A host write, next in the script and in the schedule. -/
def placeWrite (bs : List Byte) (s : State) : State :=
  { s with
    script := .access (.write (byteAt bs 0) (le32 bs 1)) :: s.script
    schedule := .host :: s.schedule }

/-- A word of the table where the next step takes it (log entries 10 and 11). -/
def placeTableWord (nbits w : Nat) (s : State) : State :=
  match tableFormat nbits with
  | .hostWrite => placeWrite (tableBytes nbits w) s
  | .tlvHeader => placeTlv (tableBytes nbits w) s
  | _ => placeWindow (tableBytes nbits w) s

end Sys2Proof.Machine
end

