-- ==== Sys2Proof/Machine/Step.lean ====
section
/-! DEFINITION. One step: the next agent's turn (spec R11, R14). The transaction its port carries is decoded and run; a turn
without a transfer changes nothing of the core. -/

namespace Sys2Proof.Machine

/-- One atomic step (R11). With nothing scheduled no agent moves and the state stays (log entry 3). -/
def step (s : State) : Host.Outcome State Fault Refusal :=
  match fetch s with
  | none => .next (passTurn s)
  | some w =>
    match decode w.format w.bytes with
    | .ok i => exec i (consume s)
    | .error e => .refused (.undecodable e)

/-- The state whose very next step runs the table's word (log entry 11). -/
def State.withFetchWord (s : State) (nbits w : Nat) : State := placeTableWord nbits w s

end Sys2Proof.Machine
end

