-- ==== Sys2Proof/Machine/Script.lean ====
section
/-! DEFINITION. The script notation (spec R75) and its pseudo-operations (R76): how the environment agents are scheduled
when a script is run. Nothing of the block itself stands here. -/

namespace Sys2Proof.Machine

/-! ## Pseudo-operations (R76) -/

/-- `TLV(type, L)`. -/
def pseudoTlv (type len : Word) : List Byte := bytes32 type ++ bytes32 len

/-- `HDR(pl, n, t [, ver, plat, fn, tc, sf])`, the omitted arguments 0. -/
def pseudoHdr (pl n t : Word) (ver plat fn tc sf : Word := 0#32) : List Byte :=
  headerBytes { version := ver, pktLen := pl, platform := plat, frameNum := fn
                timeCpu := tc, numObj := n, numTlv := t, subframe := sf }

/-- `FILL(k, b)`. -/
def pseudoFill (k : Nat) (b : Byte) : List Byte := List.replicate k b

/-- The items of a PACKET: any other pseudo-operation that gives bytes, and bytes written out. -/
inductive PacketItem where
  | hdr (pl n t ver plat fn tc sf : Word)
  | tlv (type len : Word)
  | obj (r : ObjRec)
  | sig (r : SigRec)
  | fill (k : Nat) (b : Byte)
  | raw (bs : List Byte)
deriving DecidableEq, Repr

/-- The bytes of an item. -/
def PacketItem.bytes : PacketItem → List Byte
  | .hdr pl n t ver plat fn tc sf => pseudoHdr pl n t ver plat fn tc sf
  | .tlv t len => pseudoTlv t len
  | .obj r => objBytes r
  | .sig r => sigBytes r
  | .fill k b => pseudoFill k b
  | .raw bs => bs

/-- An item is a `TLV(...)`. -/
def PacketItem.isTlv : PacketItem → Bool
  | .tlv _ _ => true
  | _ => false

/-- `PACKET(n) { items }`. -/
def pseudoPacket (n : Nat) (items : List PacketItem) : List Byte :=
  pseudoHdr (wrap32 (40 + (items.flatMap PacketItem.bytes).length)) (wrap32 n) (wrap32 (items.countP PacketItem.isTlv))
    ++ items.flatMap PacketItem.bytes

/-- The word of a command (R72). -/
def commandWord : CmdOp → Word
  | .nop => 0#32
  | .abort => 1#32
  | .restart => 2#32
  | .clearStats => 3#32
  | .softReset => 4#32
  | .illegal w => w

/-! ## Scripts (R75) -/

/-- One line of a script. -/
inductive ScriptLine where
  | wr (r : Reg) (v : Word)
  | rd (r : Reg) (v : Word)
  | input (bs : List Byte)
  | rst
  | sink (on : Bool)
deriving DecidableEq, Repr

/-- `CMD <mnemonic>` (R76). -/
def pseudoCmd (c : CmdOp) : ScriptLine := .wr .cmd (commandWord c)

/-- One step with the given agent to move. -/
def turn (t : Turn) (s : State) : State :=
  match step { s with schedule := t :: s.schedule } with
  | .next u => u
  | .fault _ => s
  | .refused _ => s

/-- The Source and Sink steps that run until neither is enabled, at most `n` of them (R75). The two are never enabled
together (R44). -/
def settle (sinkOn : Bool) : Nat → State → State
  | 0, s => s
  | n + 1, s =>
    if inReady s && !s.source.isEmpty then settle sinkOn n (turn .source s)
    else if outValid s && sinkOn then settle sinkOn n (turn .sink s)
    else s

/-- A script under way: the state, whether the Sink holds `out_ready = 1`, and whether every RD line so far returned what
it expected. -/
structure Bench where
  state  : State
  sinkOn : Bool
  asExpected : Bool
deriving DecidableEq, Repr

/-- The agents' steps after a line: one step takes a byte or gives a row, and a row has at least a byte of payload. -/
def Bench.settled (b : Bench) : Bench :=
  let s := b.state
  { b with state := settle b.sinkOn (2 * (s.source.length + s.pb.length) + s.emitN + 1) s }

/-- One host access, at once. -/
def hostTurn (x : Access) (s : State) : State := turn .host { s with script := .access x :: s.script }

/-- One line (R75). -/
def Bench.runLine (b : Bench) : ScriptLine → Bench
  | .wr r v => Bench.settled { b with state := hostTurn (.write r.addr v) b.state }
  | .rd r v =>
      let s := hostTurn (.read r.addr) b.state
      Bench.settled { b with state := s, asExpected := b.asExpected && decide (s.hostResp = .read v false) }
  | .input bs => Bench.settled { b with state := { b.state with source := b.state.source ++ bs } }
  | .rst => Bench.settled { b with state := turn .reset b.state }
  | .sink on => Bench.settled { b with sinkOn := on }

/-- A script, from `SINK ON` (R75). -/
def runScript (s : State) (lines : List ScriptLine) : Bench :=
  lines.foldl Bench.runLine { state := s, sinkOn := true, asExpected := true }

end Sys2Proof.Machine
end

