-- ==== Sys2Proof/Safety.lean ====
section
/-! DEFINITION. What counts as a correct run: the state invariant (spec R24, with the bounds of R7, R20 to R23 and R35), and
the stream-level reading of the block (R86, R105), written over `tlvLoop` without `step`. -/

namespace Sys2Proof.Machine

/-! ## The state invariant -/

/-- Nothing is staged and no row is left (R22, R23). -/
abbrev nothingStaged (s : State) : Prop := s.obj = [] ∧ s.sig = [] ∧ s.emitN = 0 ∧ s.emitIdx = 0

/-- R24 in phase HUNT. -/
abbrev huntInv (s : State) : Prop := s.phase = .hunt → s.hb.length ≤ 39 ∧ s.pb = [] ∧ nothingStaged s

/-- R24 in phase PAYLOAD. -/
abbrev payloadInv (s : State) : Prop :=
  s.phase = .payload →
    s.hb = [] ∧ s.pb.length < s.hdr.pktLen.toNat - 40 ∧ s.hdr.pktLen.toNat - 40 ≤ s.params.payloadMax ∧ nothingStaged s

/-- R24 in phase EMIT, with the capacity of R22. -/
abbrev emitInv (s : State) : Prop :=
  s.phase = .emit →
    s.hb = [] ∧ s.pb = [] ∧ s.emitN = min s.obj.length s.sig.length ∧ 1 ≤ s.emitN ∧ s.emitIdx < s.emitN ∧
      s.obj.length ≤ s.params.maxObj ∧ s.sig.length ≤ s.params.maxObj

/-- R24 in phase HALT. -/
abbrev haltInv (s : State) : Prop := s.phase = .halt → s.hb.length = 39 ∧ s.pb = [] ∧ nothingStaged s

/-- LAST_OUTCOME holds a code that is produced, flags only for a commit, and its bit 3 is 0 (R35, I11). -/
abbrev outcomeInv (s : State) : Prop :=
  s.lastOutcome.toNat % 16 ≤ 4 ∧ (s.lastOutcome.toNat % 16 ≠ 1 → s.lastOutcome.toNat < 16)

/-- The invariant: R24, the parameters in their ranges (R7), the loop's variables at rest between steps (R43, R89). -/
abbrev StateInv (s : State) : Prop :=
  s.params.legal ∧ huntInv s ∧ payloadInv s ∧ emitInv s ∧ haltInv s ∧ outcomeInv s ∧ s.loop = LoopVars.start

/-! ## The stream-level reading (R86, R105) -/

/-- A candidate header starts at offset `p` (R60, R86). -/
def syncAt (bs : List Byte) (p : Nat) : Bool := decide (p + 40 ≤ bs.length) && decide (le64 bs p = Config.magic)

/-- The least offset of a candidate header (R86). -/
def firstSync (bs : List Byte) : Option Nat := (List.range bs.length).find? (syncAt bs)

/-- `rows(cy, O, S)` (R105), each with its `out_last` (R100). -/
def rowsOf (cycle : Word) (objs : List ObjRec) (sigs : List SigRec) : List Transfer :=
  ((objs.zip sigs).zipIdx).map fun p =>
    { row := mergeRow cycle p.2 p.1.1 p.1.2, last := decide (p.2 + 1 = min objs.length sigs.length) }

/-- `next(cy)` (R105). -/
def nextCycle (auto : Bool) (cycle : Word) : Word := if auto then wrap32 (cycle.toNat + 1) else cycle

/-- `parse(s, cy)` (R105). Every call drops at least a header, so as many calls as bytes are enough. -/
def parse (p : Params) (auto : Bool) : Nat → List Byte → Word → List Transfer
  | 0, _, _ => []
  | n + 1, bs, cycle =>
    match firstSync bs with
    | none => []
    | some q =>
      let P := (le32 bs (q + 12)).toNat - 40
      let rest := bs.drop (q + 40)
      if (le32 bs (q + 12)).toNat < 40 ∨ p.payloadMax < P then parse p auto n rest cycle
      else if rest.length < P then []
      else
        let v := tlvLoop { pb := rest.take P, P := P, N := (le32 bs (q + 28)).toNat, T := (le32 bs (q + 32)).toNat,
                           maxObj := p.maxObj }
        match v.exit with
        | .discarded _ _ _ => parse p auto n (rest.drop P) cycle
        | _ => rowsOf cycle v.objs v.sigs ++ parse p auto n (rest.drop P) (nextCycle auto cycle)

/-- The end of a run (R141): every offered byte taken or the block in HALT, the host script done, no row left. A block in
PAYLOAD waits for bytes the Source does not have. -/
abbrev runEnded (s : State) : Prop := (s.source = [] ∨ s.phase = .halt) ∧ s.script = [] ∧ s.phase ≠ .emit

end Sys2Proof.Machine
end

