-- ==== Sys2Proof/Certificates/Slice0/Obligations.lean ====
section
/-! DEFINITION. The statements for the provers, family by family. `run n s` below is `Host.Core.run Sys2Proof.core n s`. -/

open Sys2Proof Sys2Proof.Machine

/-! ## Encoding -/

/-- Words of every format that has words, written out from R26, R50, R51, R59, R61, R64, R66 and R72, decode to the
operations they stand for; a port transfer's byte and the two wordless transfers too (R77, R88, R101, R129). -/
def Obligations.WrittenWordsDecode : Prop :=
  decode .syncWord
      ([0x02, 0x01, 0x04, 0x03, 0x06, 0x05, 0x08, 0x07, 1, 0, 0, 0, 0x60, 0, 0, 0, 2, 0, 0, 0] ++
       [3, 0, 0, 0, 4, 0, 0, 0, 2, 0, 0, 0, 2, 0, 0, 0, 5, 0, 0, 0]) =
    .ok (.headerLatch { version := 1#32, pktLen := 96#32, platform := 2#32, frameNum := 3#32
                        timeCpu := 4#32, numObj := 2#32, numTlv := 2#32, subframe := 5#32 }) ∧
  decode .syncWord [0x00, 0x02, 0x01, 0x04, 0x03, 0x06, 0x05, 0x08] = .ok (.resyncShift 0x0805060304010200#64) ∧
  decode .tlvHeader [0x01, 0, 0, 0, 0x20, 0, 0, 0] = .ok (.tlvPosvel 32#32) ∧
  decode .tlvHeader [0x07, 0, 0, 0, 0x08, 0, 0, 0] = .ok (.tlvSignal 8#32) ∧
  decode .tlvHeader [0x14, 0, 0, 0, 0x10, 0x27, 0, 0] = .ok (.tlvSkip 20#32 10000#32) ∧
  decode .tlvHeader [0x15, 0, 0, 0, 0, 0, 0, 0] = .ok (.tlvInvalid 21#32 0#32) ∧
  decode .tlvHeader [0x07, 0, 0, 0, 0x11, 0x27, 0, 0] = .ok (.tlvInvalidLen 7#32 10001#32) ∧
  decode .cmdWord [0x01, 0, 0, 0] = .ok .abort ∧
  decode .hostRead [0x74] = .ok (.regRead 0x74#8) ∧
  decode .hostRead [0x7E] = .ok (.regAccessFault (.read 0x7E#8)) ∧
  decode .hostWrite [0x10, 0xFD, 0x01, 0, 0] = .ok (.irqEnWrite 0x1FD#32) ∧
  decode .hostWrite [0x04, 0x02, 0, 0, 0] = .ok .restart ∧
  decode .hostWrite [0x80, 0x01, 0, 0, 0] = .ok (.regAccessFault (.write 0x80#8 1#32)) ∧
  decode (.inPort .hunt) [0x03] = .ok (.byteInHunt 0x03#8) ∧
  decode (.inPort .payload) [0x03] = .ok (.byteInPayload 0x03#8) ∧
  decode .outPort [] = .ok .rowOut ∧
  decode .resetPin [] = .ok .reset

/-- Every well-formed operation that has a word is read back from it, with every operand at every value. -/
def Obligations.DecodeAfterEncode : Prop :=
  ∀ (i : Instr) (f : Format) (bs : List Byte),
    i.wellFormed = true → encode i = some (f, bs) → decode f bs = .ok i

/-- What the decoder reads is well-formed, and its word is the one that was read: for every format but the window (whose
bytes past a failed sync word no operation holds) and but a host write to CMD (whose word is the data alone). -/
def Obligations.EncodeAfterDecode : Prop :=
  ∀ (f : Format) (bs : List Byte) (i : Instr), decode f bs = .ok i →
    i.wellFormed = true ∧
    (f ≠ .syncWord → (f = .hostWrite → byteAt bs 0 ≠ 0x04#8) → encode i = some (f, bs))

/-- Every 32-bit value matches exactly one TLV_HEADER row and exactly one CMD_WORD row of the opcode table, and a
TLV_HEADER_LENGTH row applies exactly to the lengths above 10000. -/
def Obligations.TableRowsPartitionTheWords : Prop :=
  ∀ w : Word,
    (tlvTypeRows.filter (fun r => r.applies w)).length = 1 ∧
    (cmdRows.filter (fun r => r.applies w)).length = 1 ∧
    ((∃ r ∈ tlvLengthRows, r.applies w = true) ↔ 10000 < w.toNat)

/-- The decoder reads a word as the row of the opcode table that applies to it, a length row before a type row. -/
def Obligations.TableRowsNameTheDecodedOperation : Prop :=
  (∀ r ∈ tlvTypeRows, ∀ t len : Word, len.toNat ≤ 10000 → r.applies t = true →
    (decodeTlv t len).toInstr.mnemonic = r.mnemonic) ∧
  (∀ r ∈ tlvLengthRows, ∀ t len : Word, r.applies len = true → (decodeTlv t len).toInstr.mnemonic = r.mnemonic) ∧
  (∀ r ∈ cmdRows, ∀ w : Word, r.applies w = true → (decodeCmd w).toInstr.mnemonic = r.mnemonic)

/-- R47. -/
def Obligations.FieldsAreLittleEndian : Prop :=
  ∀ (s : List Byte) (o : Nat),
    (le16 s o).toNat = (byteAt s o).toNat + 2 ^ 8 * (byteAt s (o + 1)).toNat ∧
    (le32 s o).toNat = (byteAt s o).toNat + 2 ^ 8 * (byteAt s (o + 1)).toNat + 2 ^ 16 * (byteAt s (o + 2)).toNat
      + 2 ^ 24 * (byteAt s (o + 3)).toNat ∧
    (le64 s o).toNat = (le32 s o).toNat + 2 ^ 32 * (le32 s (o + 4)).toNat

/-- R79. -/
def Obligations.SyncDetectorComparesEightBytes : Prop :=
  ∀ s : List Byte, 8 ≤ s.length →
    (isSync s = true ↔ s.take 8 = [0x02, 0x01, 0x04, 0x03, 0x06, 0x05, 0x08, 0x07])

/-! ## Header window and resynchronizer -/

/-- R77, R78: a byte accepted in HUNT fills the window, and the byte that completes it has it evaluated. -/
def Obligations.HuntByteFillsOrEvaluatesWindow : Prop :=
  ∀ (b : Byte) (s : State), s.phase = .hunt → enabled s = true →
    let full : State := { s with hb := s.hb ++ [b] }
    (s.hb.length ≠ 39 → exec (.byteInHunt b) s = .next full) ∧
    (s.hb.length = 39 → le64 full.hb 0 = 0x0708050603040102#64 →
      exec (.byteInHunt b) s = exec (.headerLatch (headerAt full.hb)) full) ∧
    (s.hb.length = 39 → le64 full.hb 0 ≠ 0x0708050603040102#64 →
      exec (.byteInHunt b) s = exec (.resyncShift (le64 full.hb 0)) full)

/-- R80: the eight fields come from their offsets, HB is emptied, RESYNC_CNT cleared, then the length is checked. -/
def Obligations.HeaderLatchThenLengthCheck : Prop :=
  (∀ bs : List Byte, bs.length = 40 → le64 bs 0 = 0x0708050603040102#64 →
    decode .syncWord bs = .ok (.headerLatch
      { version := le32 bs 8, pktLen := le32 bs 12, platform := le32 bs 16, frameNum := le32 bs 20
        timeCpu := le32 bs 24, numObj := le32 bs 28, numTlv := le32 bs 32, subframe := le32 bs 36 })) ∧
  (∀ (h : Header) (s : State),
    exec (.headerLatch h) s = exec .lenCheck { s with hdr := h, hb := [], resyncCnt := 0#32 } ∧
    ∃ t, exec (.headerLatch h) s = .next t ∧ t.hdr = h ∧ t.hb = [] ∧ t.resyncCnt = 0#32)

/-- R81, R82: the shift drops one byte, counts with saturation and raises SYNC_FAIL; the cap, if reached, halts. -/
def Obligations.ResyncShiftAndCap : Prop :=
  (∀ (sync : DWord) (s : State),
    let count : Word := BitVec.ofNat 32 (min (s.resyncCnt.toNat + 1) (2 ^ 32 - 1))
    let halts : Prop := s.resyncLimit ≠ 0#32 ∧ s.resyncLimit.toNat ≤ count.toNat
    (halts → exec (.resyncShift sync) s =
      .next { s with hb := s.hb.tail, resyncCnt := count, events := s.events ||| 0x012#9, phase := .halt }) ∧
    (¬halts → exec (.resyncShift sync) s =
      .next { s with hb := s.hb.tail, resyncCnt := count, events := s.events ||| 0x002#9 })) ∧
  (∀ s : State,
    let halts : Prop := s.resyncLimit ≠ 0#32 ∧ s.resyncLimit.toNat ≤ s.resyncCnt.toNat
    (halts → exec .resyncCap s = .next { s with phase := .halt, events := s.events ||| 0x010#9 }) ∧
    (¬halts → exec .resyncCap s = .next s))

/-- R83, for the state the latch leaves (HB empty, nothing collected or staged). -/
def Obligations.LengthCheckDiscardsOrAccepts : Prop :=
  ∀ s : State, s.hb = [] → s.pb = [] → s.obj = [] → s.sig = [] →
    ((s.hdr.pktLen.toNat < 40 ∨ s.params.payloadMax < s.hdr.pktLen.toNat - 40) →
      exec .lenCheck s =
        .next { s with events := s.events ||| 0x008#9, discardCnt := s.discardCnt + 1#32, lastOutcome := 3#7
                       lastObjLen := 0#32, lastSigLen := 0#32, lastRows := 0#32, phase := .hunt }) ∧
    (¬(s.hdr.pktLen.toNat < 40 ∨ s.params.payloadMax < s.hdr.pktLen.toNat - 40) →
      exec .lenCheck s = exec .headerAccept s ∧ ∃ t, exec .lenCheck s = .next t ∧ t.hdr = s.hdr)

/-- R84: a payload is collected; an empty one commits at once with no row, and SHORT if TLVs were declared. -/
def Obligations.HeaderAcceptCollectsOrCommits : Prop :=
  ∀ s : State,
    (s.hdr.pktLen.toNat ≠ 40 → exec .headerAccept s = .next { s with pb := [], phase := .payload }) ∧
    (s.hdr.pktLen.toNat = 40 →
      exec .headerAccept s =
        .next { s with
          pb := [], obj := [], sig := [], emitN := 0, emitIdx := 0, phase := .hunt, loop := LoopVars.start
          events := s.events ||| (if s.hdr.numTlv = 0#32 then 0x001#9 else 0x041#9)
          lastOutcome := if s.hdr.numTlv = 0#32 then 0x01#7 else 0x21#7
          frameCnt := s.frameCnt + 1#32, lastObjLen := 0#32, lastSigLen := 0#32, lastRows := 0#32
          curCycle := s.cycleId, lastCycle := s.cycleId
          cycleId := if s.ctrl.getLsbD 1 then s.cycleId + 1#32 else s.cycleId })

/-- R85: without readiness no BYTE_IN changes anything, and the offered byte stays offered. -/
def Obligations.InputWaitsWithoutReadiness : Prop :=
  ∀ s : State, (enabled s = false ∨ s.phase = .emit ∨ s.phase = .halt) →
    (∀ b, exec (.byteInHunt b) s = .next s ∧ exec (.byteInPayload b) s = .next s) ∧
    (∀ ts, s.schedule = .source :: ts → step s = .next { s with schedule := ts })

/-- R86, R82, R133, for any limit and any count before. The cap, where there is one, halts on the `m`-th mismatch from here.
While fewer happen (or there is no cap), the first header latched is at the least offset of the sync word, in the step that
accepts its 40th byte, after one shift for each byte before it, and without such an offset nothing is latched. If `m` happen
in a row, the `m`-th halts the search, with the last 39 bytes kept. -/
def Obligations.SearchLatchesTheFirstMatch : Prop :=
  ∀ (s : State) (bs : List Byte),
    s.phase = .hunt → s.hb = [] → enabled s = true →
    s.source = bs → s.schedule = List.replicate bs.length .source →
    let m := max 1 (s.resyncLimit.toNat - s.resyncCnt.toNat)
    let below (k : Nat) : Prop := s.resyncLimit = 0#32 ∨ k < m
    (firstSync bs = none → below (bs.length - 39) →
      ∃ t : State, Host.Core.run Sys2Proof.core bs.length s = .next t ∧ t.phase = .hunt ∧ t.hdr = s.hdr ∧
        t.hb.length = min bs.length 39 ∧ t.source = []) ∧
    (∀ p, firstSync bs = some p → below p →
      (∃ t : State, Host.Core.run Sys2Proof.core (p + 39) s = .next t ∧ t.phase = .hunt ∧ t.hdr = s.hdr ∧
        t.hb.length = 39 ∧ t.resyncCnt = BitVec.ofNat 32 (min (s.resyncCnt.toNat + p) (2 ^ 32 - 1))) ∧
      (∃ u : State, Host.Core.run Sys2Proof.core (p + 40) s = .next u ∧ u.hdr = headerAt (bs.drop p) ∧ u.hb = [] ∧
        u.resyncCnt = 0#32 ∧ u.source = bs.drop (p + 40))) ∧
    (s.resyncLimit ≠ 0#32 → m + 39 ≤ bs.length → (∀ p, firstSync bs = some p → m ≤ p) →
      (∃ t : State, Host.Core.run Sys2Proof.core (m + 38) s = .next t ∧ t.phase = .hunt) ∧
      (∃ u : State, Host.Core.run Sys2Proof.core (m + 39) s = .next u ∧ u.phase = .halt ∧ u.hdr = s.hdr ∧
        u.hb = (bs.drop m).take 39 ∧ u.resyncCnt = BitVec.ofNat 32 (min (s.resyncCnt.toNat + m) (2 ^ 32 - 1)) ∧
        pending u .desync = true ∧ pending u .syncFail = true ∧ u.source = bs.drop (m + 39)))

/-- R87: garbage without the sync word's bytes before a header hides it by exactly its own length: the header is latched in
the step that accepts byte `k + 40`, after `k` shifts, if the cap (where there is one) allows more than `k` mismatches. -/
def Obligations.GarbageOnlyDelaysTheHeader : Prop :=
  ∀ (g rest : List Byte) (h : Header),
    (∀ p, p + 8 ≤ g.length → le64 g p ≠ Config.magic) →
    firstSync (g ++ headerBytes h ++ rest) = some g.length ∧
    ∀ s : State, s.phase = .hunt → s.hb = [] → enabled s = true →
      (s.resyncLimit = 0#32 ∨ s.resyncCnt.toNat + g.length < s.resyncLimit.toNat) →
      s.source = g ++ headerBytes h ++ rest → s.schedule = List.replicate (g.length + 40 + rest.length) .source →
      (∃ t : State, Host.Core.run Sys2Proof.core (g.length + 39) s = .next t ∧ t.phase = .hunt ∧ t.hdr = s.hdr ∧
        t.resyncCnt = BitVec.ofNat 32 (min (s.resyncCnt.toNat + g.length) (2 ^ 32 - 1))) ∧
      (∃ u : State, Host.Core.run Sys2Proof.core (g.length + 40) s = .next u ∧ u.hdr = h ∧ u.hb = [] ∧
        u.resyncCnt = 0#32 ∧ u.source = rest)

/-- R82, R122: only RESTART, ABORT, SOFT_RESET and reset leave HALT. -/
def Obligations.OnlyTheHostLeavesHalt : Prop :=
  ∀ s t : State, s.phase = .halt → step s = .next t → t.phase ≠ .halt →
    ∃ w i, fetch s = some w ∧ decode w.format w.bytes = .ok i ∧
      (i = .restart ∨ i = .abort ∨ i = .softReset ∨ i = .reset)

/-! ## Payload and TLV demultiplexer -/

/-- R92, R95: the whole records that fit are staged up to MAX_OBJ, the cursor passes the block clamped to the payload. -/
def Obligations.PosvelStagesWholeRecords : Prop :=
  ∀ (len : Word) (s : State), s.loop.objs.length ≤ s.params.maxObj →
    let v := s.loop
    let N := s.hdr.numObj.toNat
    let rem := s.hdr.pktLen.toNat - 40 - v.c
    let k := min N (rem / 16)
    let recs : List ObjRec := (List.range k).map fun j =>
      let o := v.c + 16 * j
      { x := le32 s.pb o, y := le32 s.pb (o + 4), z := le32 s.pb (o + 8), v := le32 s.pb (o + 12) }
    exec (.tlvPosvel len) s =
      .next { s with loop := { v with
        objs := v.objs ++ recs.take (s.params.maxObj - v.objs.length)
        ovf := v.ovf || decide (s.params.maxObj < v.objs.length + k)
        short := v.short || decide (rem < N * 16)
        c := v.c + min (N * 16) rem } }

/-- R93, R95. -/
def Obligations.SignalStagesWholeRecords : Prop :=
  ∀ (len : Word) (s : State), s.loop.sigs.length ≤ s.params.maxObj →
    let v := s.loop
    let N := s.hdr.numObj.toNat
    let rem := s.hdr.pktLen.toNat - 40 - v.c
    let k := min N (rem / 4)
    let recs : List SigRec := (List.range k).map fun j =>
      let o := v.c + 4 * j
      { snr := le16 s.pb o, noise := le16 s.pb (o + 2) }
    exec (.tlvSignal len) s =
      .next { s with loop := { v with
        sigs := v.sigs ++ recs.take (s.params.maxObj - v.sigs.length)
        ovf := v.ovf || decide (s.params.maxObj < v.sigs.length + k)
        short := v.short || decide (rem < N * 4)
        c := v.c + min (N * 4) rem } }

/-- R94: an unrecognized type's bytes are skipped, clamped to the payload. -/
def Obligations.SkipAdvancesByTheLength : Prop :=
  ∀ (t len : Word) (s : State),
    let rem := s.hdr.pktLen.toNat - 40 - s.loop.c
    exec (.tlvSkip t len) s =
      .next { s with loop := { s.loop with
        short := s.loop.short || decide (rem < len.toNat), c := s.loop.c + min len.toNat rem } }

/-- R91: the bounds are checked before the dispatch, and an illegal TLV header leaves the loop with its index and words: the
two operations do so, and so does the loop's turn that finds such a header whole. -/
def Obligations.IllegalTlvLeavesTheLoop : Prop :=
  (∀ t len : Word,
    (decodeTlv t len = .invalid t len ∨ decodeTlv t len = .invalidLen t len) ↔ (20 < t.toNat ∨ 10000 < len.toNat)) ∧
  (∀ (t len : Word) (s : State),
    exec (.tlvInvalid t len) s = .next { s with loop := { s.loop with exit := .discarded s.loop.i t len } } ∧
    exec (.tlvInvalidLen t len) s = .next { s with loop := { s.loop with exit := .discarded s.loop.i t len } }) ∧
  (∀ (e : LoopEnv) (v : LoopVars), v.i < e.T → 8 ≤ e.P - v.c →
    let t := le32 e.pb v.c
    let L := le32 e.pb (v.c + 4)
    (20 < t.toNat ∨ 10000 < L.toNat) → loopTurn e v = { v with exit := .discarded v.i t L })

/-- R90: with fewer than 8 bytes left the loop ends with SHORT and commits what is staged; none of them is read as a TLV
header. With them, the loop's other turns on a legal payload (R89, R64): a whole legal TLV header selects its row by its
type, the row acts with the cursor past the header, and the index goes up by one; and after the last declared TLV the loop
commits with no flag set, whatever bytes are left (R69). The turn on an illegal header is in `IllegalTlvLeavesTheLoop`. -/
def Obligations.CutHeaderEndsTheLoop : Prop :=
  (∀ s : State,
    exec .tlvHdrShort s = .next { s with loop := { s.loop with short := true, exit := .committed } }) ∧
  (∀ (e : LoopEnv) (v : LoopVars), v.i < e.T → e.P - v.c < 8 →
    loopTurn e v = { v with short := true, exit := .committed }) ∧
  (∀ s : State,
    let v := s.loop
    let t := le32 s.pb v.c
    let L := le32 s.pb (v.c + 4)
    let row : Instr := if t.toNat = 1 then .tlvPosvel L else if t.toNat = 7 then .tlvSignal L else .tlvSkip t L
    v.i < s.hdr.numTlv.toNat → 8 ≤ s.hdr.pktLen.toNat - 40 - v.c → t.toNat ≤ 20 → L.toNat ≤ 10000 →
    ∃ u : State, exec row { s with loop := { v with c := v.c + 8 } } = .next u ∧
      loopTurn (loopEnv s) v = { u.loop with i := v.i + 1 }) ∧
  (∀ (e : LoopEnv) (v : LoopVars), e.T ≤ v.i → loopTurn e v = { v with exit := .committed })

/-- R95: an append below MAX_OBJ records keeps the record, one at or past it drops the record and sets the flag. -/
def Obligations.AppendDropsPastCapacity : Prop :=
  ∀ s : State,
    (∀ r, s.loop.objs.length < s.params.maxObj →
      exec (.stageAppend (.obj r)) s = .next { s with loop := { s.loop with objs := s.loop.objs ++ [r] } }) ∧
    (∀ r, s.params.maxObj ≤ s.loop.objs.length →
      exec (.stageAppend (.obj r)) s = .next { s with loop := { s.loop with ovf := true } }) ∧
    (∀ r, s.loop.sigs.length < s.params.maxObj →
      exec (.stageAppend (.sig r)) s = .next { s with loop := { s.loop with sigs := s.loop.sigs ++ [r] } }) ∧
    (∀ r, s.params.maxObj ≤ s.loop.sigs.length →
      exec (.stageAppend (.sig r)) s = .next { s with loop := { s.loop with ovf := true } })

/-- R89, R96: the loop starts from its start values, takes turns as long as it is running, and ends, after at most
`min(T, P div 8)` whole TLVs, with a result and at most MAX_OBJ records staged in each array; more turns would change
nothing. -/
def Obligations.LoopEndsWithinItsBound : Prop :=
  ∀ s : State,
    let P := s.hdr.pktLen.toNat - 40
    let e := loopEnv s
    ∃ v : LoopVars, exec .tlvLoop s = .next { s with loop := v } ∧
      v.exit ≠ .running ∧
      v.i ≤ min s.hdr.numTlv.toNat (P / 8) ∧
      v.objs.length ≤ s.params.maxObj ∧ v.sigs.length ≤ s.params.maxObj ∧
      (∀ n, P / 8 + 1 ≤ n → loopFrom e n LoopVars.start = v) ∧
      ∃ k, v = (loopTurn e)^[k] { c := 0, i := 0, objs := [], sigs := [], short := false, ovf := false, exit := .running } ∧
        ∀ j, j < k → ((loopTurn e)^[j] LoopVars.start).exit = .running

/-- R89: the loop reads only the payload's own bytes. -/
def Obligations.LoopReadsOnlyThePayload : Prop :=
  ∀ (e : LoopEnv) (beyond : List Byte), e.pb.length = e.P →
    tlvLoop { e with pb := e.pb ++ beyond } = tlvLoop e

/-- R88: a byte accepted in PAYLOAD is collected, and the last one has the loop run and its outcome applied in the same
step. -/
def Obligations.PayloadByteCollectsOrFinishes : Prop :=
  ∀ (b : Byte) (s : State), s.phase = .payload → enabled s = true →
    let P := s.hdr.pktLen.toNat - 40
    let full : State := { s with pb := s.pb ++ [b], loop := LoopVars.start }
    let v := tlvLoop (loopEnv full)
    (s.pb.length + 1 ≠ P → exec (.byteInPayload b) s = .next { s with pb := s.pb ++ [b] }) ∧
    (s.pb.length + 1 = P →
      (∀ i t len, v.exit = .discarded i t len →
        exec (.byteInPayload b) s = exec (.discard (BitVec.ofNat 32 i) t len) full) ∧
      (v.exit = .committed → exec (.byteInPayload b) s = exec (.commit v.objs v.sigs v.short v.ovf) full))

/-- R97, for a state whose header window is empty, as the latch left it. -/
def Obligations.DiscardAbandonsThePacket : Prop :=
  ∀ (i t len : Word) (s : State), s.hb = [] →
    exec (.discard i t len) s =
      .next { s with
        obj := [], sig := [], pb := [], events := s.events ||| 0x004#9, discardCnt := s.discardCnt + 1#32
        lastOutcome := 2#7, lastObjLen := 0#32, lastSigLen := 0#32, lastRows := 0#32
        badTlvIndex := i, badTlvType := t, badTlvLen := len, phase := .hunt }

/-! ## Commit and row output -/

/-- R99. -/
def Obligations.CommitFixesTheRows : Prop :=
  ∀ (os : List ObjRec) (gs : List SigRec) (short ovf : Bool) (s : State),
    let n := min os.length gs.length
    let trunc := decide (os.length ≠ gs.length)
    exec (.commit os gs short ovf) s =
      .next { s with
        events := s.events ||| 0x001#9 ||| (if trunc then 0x020#9 else 0#9) ||| (if short then 0x040#9 else 0#9)
          ||| (if ovf then 0x080#9 else 0#9)
        frameCnt := s.frameCnt + 1#32
        lastOutcome := BitVec.ofNat 7 (1 + 16 * trunc.toNat + 32 * short.toNat + 64 * ovf.toNat)
        lastObjLen := BitVec.ofNat 32 os.length
        lastSigLen := BitVec.ofNat 32 gs.length
        lastRows := BitVec.ofNat 32 n
        curCycle := s.cycleId
        lastCycle := s.cycleId
        cycleId := if s.ctrl.getLsbD 1 then s.cycleId + 1#32 else s.cycleId
        pb := []
        obj := if 0 < n then os else []
        sig := if 0 < n then gs else []
        emitN := n
        emitIdx := 0
        phase := if 0 < n then .emit else .hunt }

/-- R100, R101, R102: the output port presents the row of index-wise merge, the transfer delivers it, and the last
one ends the emission. -/
def Obligations.RowOutDeliversTheMergedRow : Prop :=
  ∀ (s : State) (o : ObjRec) (g : SigRec),
    s.phase = .emit → s.obj[s.emitIdx]? = some o → s.sig[s.emitIdx]? = some g →
    let row : Transfer :=
      { row := { cycle := s.curCycle, object := BitVec.ofNat 32 (s.emitIdx + 1), x := o.x, y := o.y, z := o.z, v := o.v
                 snr := g.snr, noise := g.noise }
        last := decide (s.emitIdx + 1 = s.emitN) }
    outValid s = true ∧ outPort s = some row ∧
    (s.emitIdx + 1 ≠ s.emitN →
      exec .rowOut s = .next { s with
        dataset := s.dataset ++ [row], rowCnt := s.rowCnt + 1#32, emitIdx := s.emitIdx + 1 }) ∧
    (s.emitIdx + 1 = s.emitN →
      exec .rowOut s = .next { s with
        dataset := s.dataset ++ [row], rowCnt := s.rowCnt + 1#32
        obj := [], sig := [], emitN := 0, emitIdx := 0, phase := .hunt })

/-- R102; and outside EMIT no row is transferred (R44). -/
def Obligations.EmitEndClearsTheStaging : Prop :=
  (∀ s : State,
    exec .emitEnd s = .next { s with obj := [], sig := [], emitN := 0, emitIdx := 0, phase := .hunt }) ∧
  (∀ s : State, s.phase ≠ .emit → exec .rowOut s = .next s)

/-- R106, R140: a ready Sink receives exactly the rows that are left, in order, and then the block hunts again. -/
def Obligations.EmissionDeliversEveryRow : Prop :=
  ∀ (s : State) (ts : List Turn), StateInv s → s.phase = .emit →
    s.schedule = List.replicate (s.emitN - s.emitIdx) .sink ++ ts →
    (∀ k, k < s.emitN - s.emitIdx → ∃ u : State, Host.Core.run Sys2Proof.core k s = .next u ∧ u.phase = .emit) ∧
    (∃ t : State, Host.Core.run Sys2Proof.core (s.emitN - s.emitIdx) s = .next t ∧ t.phase = .hunt ∧ nothingStaged t ∧
      t.schedule = ts ∧
      t.dataset = s.dataset ++ (rowsOf s.curCycle s.obj s.sig).drop s.emitIdx ∧
      t.rowCnt = s.rowCnt + BitVec.ofNat 32 (s.emitN - s.emitIdx))

/-- R98, for records whose declared length is legal: the packet of `n` objects and `n` signals commits them all. -/
def Obligations.PacketRoundTrip : Prop :=
  ∀ (s : State) (os : List ObjRec) (gs : List SigRec) (bs : List Byte),
    StateInv s → s.phase = .hunt → s.hb = [] → enabled s = true →
    os.length = gs.length → 1 ≤ os.length → os.length ≤ s.params.maxObj →
    56 + 20 * os.length ≤ 40 + s.params.payloadMax → 16 * os.length ≤ 10000 →
    bs = pseudoPacket os.length
      ([.tlv 1#32 (BitVec.ofNat 32 (16 * os.length))] ++ os.map .obj ++
       [.tlv 7#32 (BitVec.ofNat 32 (4 * os.length))] ++ gs.map .sig) →
    s.source = bs → s.schedule = List.replicate bs.length .source →
    ∃ t : State, Host.Core.run Sys2Proof.core bs.length s = .next t ∧ t.phase = .emit ∧ t.obj = os ∧ t.sig = gs ∧
      t.emitN = os.length ∧ t.emitIdx = 0 ∧ t.curCycle = s.cycleId ∧ t.lastOutcome = 1#7 ∧ t.source = []

/-- The same packet with more than 625 objects declares a length above 10000 in its first TLV, and R66 has it discarded:
R98 does not say so (log entry 21). -/
def Obligations.LongPacketIsDiscarded : Prop :=
  ∀ (s : State) (os : List ObjRec) (gs : List SigRec) (bs : List Byte),
    StateInv s → s.phase = .hunt → s.hb = [] → enabled s = true →
    os.length = gs.length → 56 + 20 * os.length ≤ 40 + s.params.payloadMax →
    10000 < 16 * os.length → 16 * os.length < 2 ^ 32 →
    bs = pseudoPacket os.length
      ([.tlv 1#32 (BitVec.ofNat 32 (16 * os.length))] ++ os.map .obj ++
       [.tlv 7#32 (BitVec.ofNat 32 (4 * os.length))] ++ gs.map .sig) →
    s.source = bs → s.schedule = List.replicate bs.length .source →
    ∃ t : State, Host.Core.run Sys2Proof.core bs.length s = .next t ∧ t.phase = .hunt ∧ t.lastOutcome = 2#7 ∧
      t.badTlvIndex = 0#32 ∧ t.badTlvType = 1#32 ∧ t.badTlvLen.toNat = 16 * os.length ∧ t.dataset = s.dataset

/-- R105: from HUNT with an empty window, input on, no cap and a ready Sink, the Dataset of a finite stream is `parse`. -/
def Obligations.DatasetIsTheParsedStream : Prop :=
  ∀ s : State, StateInv s → s.phase = .hunt → s.hb = [] → enabled s = true → s.resyncLimit = 0#32 →
    ∃ k, ∀ n, k ≤ n →
      (settle true n s).dataset =
        s.dataset ++ parse s.params (autoInc s) (s.source.length + 1) s.source s.cycleId

/-! ## Host registers and commands -/

/-- R107: a read at each of the 32 addresses of R26 answers that register's value, a bad address answers `(0, 1)`, and nothing else changes (STATUS is in
`StatusShowsEveryField`, the reserved bits in `ReservedBitsReadZero`). -/
def Obligations.RegReadAnswers : Prop :=
  (∀ a : Addr, a.toNat % 4 = 0 → a.toNat < 0x80 → ∃ r : Reg, r.addr = a ∧ ∀ q : Reg, q.addr = a → q = r) ∧
  (∀ (r : Reg) (s : State), exec (.regRead r.addr) s = .next { s with hostResp := .read (readReg s r) false }) ∧
  (∀ p ∈ ([(0x00#8, .ctrl), (0x04#8, .cmd), (0x08#8, .status), (0x0C#8, .events), (0x10#8, .irqEn), (0x14#8, .cycleId),
      (0x18#8, .resyncLimit), (0x1C#8, .resyncCnt), (0x20#8, .pldFill), (0x24#8, .frameCnt), (0x28#8, .discardCnt),
      (0x2C#8, .rowCnt), (0x30#8, .lastOutcome), (0x34#8, .lastObjLen), (0x38#8, .lastSigLen), (0x3C#8, .lastRows)] ++
      [(0x40#8, .badTlvIndex), (0x44#8, .badTlvType), (0x48#8, .badTlvLen), (0x4C#8, .lastCycle), (0x50#8, .hdrVersion),
      (0x54#8, .hdrPktLen), (0x58#8, .hdrPlatform), (0x5C#8, .hdrFrameNum), (0x60#8, .hdrTimeCpu), (0x64#8, .hdrNumObj),
      (0x68#8, .hdrNumTlv), (0x6C#8, .hdrSubframe), (0x70#8, .magicLo), (0x74#8, .magicHi), (0x78#8, .cfgPayloadMax),
      (0x7C#8, .cfgMaxObj)] : List (Addr × Reg)),
    p.2.addr = p.1 ∧
    ∀ s : State, exec (.regRead p.1) s = .next { s with hostResp := .read (readReg s p.2) false }) ∧
  (∀ (a : Addr) (s : State), (a.toNat % 4 ≠ 0 ∨ 0x80 ≤ a.toNat) →
    exec (.regRead a) s = .next { s with hostResp := .read 0#32 true }) ∧
  (∀ s : State,
    readReg s .cmd = 0#32 ∧ readReg s .pldFill = BitVec.ofNat 32 s.pb.length ∧
    readReg s .magicLo = 0x03040102#32 ∧ readReg s .magicHi = 0x07080506#32 ∧
    readReg s .cfgPayloadMax = BitVec.ofNat 32 s.params.payloadMax ∧
    readReg s .cfgMaxObj = BitVec.ofNat 32 s.params.maxObj ∧
    (readReg s .ctrl).toNat = s.ctrl.toNat ∧ (readReg s .events).toNat = s.events.toNat ∧
    (readReg s .irqEn).toNat = s.irqEn.toNat ∧ readReg s .cycleId = s.cycleId ∧
    readReg s .resyncLimit = s.resyncLimit ∧ readReg s .resyncCnt = s.resyncCnt ∧ readReg s .frameCnt = s.frameCnt ∧
    readReg s .discardCnt = s.discardCnt ∧ readReg s .rowCnt = s.rowCnt ∧
    (∀ i, i < 7 → i ≠ 3 → (readReg s .lastOutcome).getLsbD i = s.lastOutcome.getLsbD i) ∧
    readReg s .lastObjLen = s.lastObjLen ∧ readReg s .lastSigLen = s.lastSigLen ∧ readReg s .lastRows = s.lastRows ∧
    readReg s .badTlvIndex = s.badTlvIndex ∧ readReg s .badTlvType = s.badTlvType ∧ readReg s .badTlvLen = s.badTlvLen ∧
    readReg s .lastCycle = s.lastCycle ∧ readReg s .hdrVersion = s.hdr.version ∧ readReg s .hdrPktLen = s.hdr.pktLen ∧
    readReg s .hdrPlatform = s.hdr.platform ∧ readReg s .hdrFrameNum = s.hdr.frameNum ∧
    readReg s .hdrTimeCpu = s.hdr.timeCpu ∧ readReg s .hdrNumObj = s.hdr.numObj ∧ readReg s .hdrNumTlv = s.hdr.numTlv ∧
    readReg s .hdrSubframe = s.hdr.subframe)

/-- R29, with the encoding of R19 and the signals of R44. -/
def Obligations.StatusShowsEveryField : Prop :=
  ∀ s : State,
    let w := readReg s .status
    w.extractLsb' 0 2 = (match s.phase with | .hunt => 0#2 | .payload => 1#2 | .emit => 2#2 | .halt => 3#2) ∧
    (w.getLsbD 2 = true ↔ (s.phase = .payload ∨ s.phase = .emit)) ∧
    (w.getLsbD 3 = true ↔ ∃ i, i < 9 ∧ s.events.getLsbD i = true ∧ s.irqEn.getLsbD i = true) ∧
    (w.getLsbD 4 = true ↔ (s.ctrl.getLsbD 0 = true ∧ (s.phase = .hunt ∨ s.phase = .payload))) ∧
    (w.getLsbD 5 = true ↔ s.phase = .emit) ∧
    w.extractLsb' 6 2 = 0#2 ∧
    w.extractLsb' 8 6 = BitVec.ofNat 6 s.hb.length ∧
    w.extractLsb' 14 18 = 0#18

/-- R74: reserved bits read 0, and what a write gives them is ignored, without an error. -/
def Obligations.ReservedBitsReadZero : Prop :=
  (∀ (s : State) (i : Nat),
    (2 ≤ i → (readReg s .ctrl).getLsbD i = false) ∧
    (9 ≤ i → (readReg s .events).getLsbD i = false ∧ (readReg s .irqEn).getLsbD i = false) ∧
    (i = 3 ∨ 7 ≤ i → (readReg s .lastOutcome).getLsbD i = false) ∧
    (i = 6 ∨ i = 7 ∨ 14 ≤ i → (readReg s .status).getLsbD i = false)) ∧
  (∀ (s : State) (d : Word),
    exec (.ctrlWrite d) s = exec (.ctrlWrite (d &&& 0x3#32)) s ∧
    exec (.eventsWrite d) s = exec (.eventsWrite (d &&& 0x1FF#32)) s ∧
    exec (.irqEnWrite d) s = exec (.irqEnWrite (d &&& 0x1FF#32)) s ∧
    ∀ i ∈ [Instr.ctrlWrite d, .eventsWrite d, .irqEnWrite d], ∃ t, exec i s = .next t ∧ t.hostResp = .write false)

/-- R108, R53: a write acts as the row of the register at its address; a read-only register ignores it with `err = 0`; a bad
address answers `err = 1`. -/
def Obligations.RegWriteDispatches : Prop :=
  ∀ (d : Word) (s : State),
    exec (.regWrite 0x00#8 d) s = exec (.ctrlWrite d) s ∧
    exec (.regWrite 0x04#8 d) s = exec (decodeCmd d).toInstr s ∧
    exec (.regWrite 0x0C#8 d) s = exec (.eventsWrite d) s ∧
    exec (.regWrite 0x10#8 d) s = exec (.irqEnWrite d) s ∧
    exec (.regWrite 0x14#8 d) s = exec (.cycleIdWrite d) s ∧
    exec (.regWrite 0x18#8 d) s = exec (.resyncLimitWrite d) s ∧
    (∀ r : Reg, r.access = .ro → exec (.regWrite r.addr d) s = .next { s with hostResp := .write false }) ∧
    (∀ a : Addr, a.toNat % 4 = 0 → a.toNat < 0x80 → a.toNat ∉ [0x00, 0x04, 0x0C, 0x10, 0x14, 0x18] →
      exec (.regWrite a d) s = .next { s with hostResp := .write false }) ∧
    (∀ a : Addr, (a.toNat % 4 ≠ 0 ∨ 0x80 ≤ a.toNat) →
      exec (.regWrite a d) s = .next { s with hostResp := .write true })

/-- R50, R51: a misaligned, unmapped or narrower access answers `err = 1`, data 0, and has no other effect. -/
def Obligations.BadAccessAnswersError : Prop :=
  (∀ (a : Addr) (s : State),
    exec (.regAccessFault (.read a)) s = .next { s with hostResp := .read 0#32 true }) ∧
  (∀ (a : Addr) (d : Word) (s : State),
    exec (.regAccessFault (.write a d)) s = .next { s with hostResp := .write true }) ∧
  (∀ a : Addr, (a.toNat % 4 ≠ 0 ∨ 0x80 ≤ a.toNat) →
    decodeRead a = .regAccessFault (.read a) ∧ ∀ d, decodeWrite a d = .regAccessFault (.write a d)) ∧
  (∀ (s : State) (isWrite : Bool) (a : Addr) (ops : List HostOp) (ts : List Turn),
    s.schedule = .host :: ts → s.script = .narrow isWrite a :: ops →
    (isWrite = true → step s = .next { s with schedule := ts, script := ops, hostResp := .write true }) ∧
    (isWrite = false → ∃ x, step s = .next { s with schedule := ts, script := ops, hostResp := .read x true }))

/-- R109. -/
def Obligations.CtrlWriteSetsTwoBits : Prop :=
  ∀ (d : Word) (s : State), ∃ t, exec (.ctrlWrite d) s = .next t ∧
    t = { s with ctrl := t.ctrl, hostResp := .write false } ∧
    enabled t = d.getLsbD 0 ∧ autoInc t = d.getLsbD 1 ∧ readReg t .ctrl = d &&& 0x3#32 ∧
    (inReady t = true ↔ d.getLsbD 0 = true ∧ (s.phase = .hunt ∨ s.phase = .payload))

/-- R110: each 1 clears its event and each 0 leaves it; IRQ_EN takes bits 8:0; irq follows at once. -/
def Obligations.EventAndMaskWrites : Prop :=
  (∀ (d : Word) (s : State), ∃ t, exec (.eventsWrite d) s = .next t ∧
    t = { s with events := t.events, hostResp := .write false } ∧
    (∀ e : Event, pending t e = (pending s e && !d.getLsbD e.bit)) ∧
    (irq t = true ↔ ∃ e : Event, pending t e = true ∧ t.irqEn.getLsbD e.bit = true)) ∧
  (∀ (d : Word) (s : State), ∃ t, exec (.irqEnWrite d) s = .next t ∧
    t = { s with irqEn := t.irqEn, hostResp := .write false } ∧
    readReg t .irqEn = d &&& 0x1FF#32 ∧
    (irq t = true ↔ ∃ e : Event, pending t e = true ∧ d.getLsbD e.bit = true))

/-- R111: the value is taken whole; RESYNC_CNT and the phase, HALT included, stay. -/
def Obligations.CycleAndLimitWrites : Prop :=
  ∀ (d : Word) (s : State),
    exec (.cycleIdWrite d) s = .next { s with cycleId := d, hostResp := .write false } ∧
    exec (.resyncLimitWrite d) s = .next { s with resyncLimit := d, hostResp := .write false }

/-- R112. -/
def Obligations.NopHasNoEffect : Prop :=
  ∀ s : State, exec .nop s = .next { s with hostResp := .write false }

/-- R113. -/
def Obligations.AbortByPhase : Prop :=
  ∀ s : State,
    (s.phase = .hunt → exec .abort s = .next { s with hb := [], resyncCnt := 0#32, hostResp := .write false }) ∧
    (s.phase = .payload → exec .abort s = .next { s with
      pb := [], phase := .hunt, resyncCnt := 0#32, lastOutcome := 4#7, lastObjLen := 0#32, lastSigLen := 0#32
      lastRows := 0#32, hostResp := .write false }) ∧
    (s.phase = .emit → exec .abort s = .next { s with hostResp := .write false }) ∧
    (s.phase = .halt → exec .abort s = .next { s with
      hb := [], resyncCnt := 0#32, phase := .hunt, hostResp := .write false })

/-- R114, R32, R125, R133. That RESTART clears RESYNC_CNT outside HALT too is the model's choice (log entry 27): R32, R125,
R133 and D20 name no phase, R114's pseudocode says `else: no effect`. -/
def Obligations.RestartLeavesHaltAndClearsTheCount : Prop :=
  ∀ s : State,
    (s.phase = .halt → exec .restart s = .next { s with phase := .hunt, resyncCnt := 0#32, hostResp := .write false }) ∧
    (s.phase ≠ .halt → exec .restart s = .next { s with resyncCnt := 0#32, hostResp := .write false })

/-- R115. -/
def Obligations.ClearStatsClearsThreeCounters : Prop :=
  ∀ s : State, exec .clearStats s =
    .next { s with frameCnt := 0#32, discardCnt := 0#32, rowCnt := 0#32, hostResp := .write false }

/-- R116: everything but the four configuration registers; the environment's state lies outside (R130). -/
def Obligations.SoftResetKeepsTheConfiguration : Prop :=
  ∀ s : State, exec .softReset s =
    .next { State.reset with
      params := s.params, ctrl := s.ctrl, irqEn := s.irqEn, cycleId := s.cycleId, resyncLimit := s.resyncLimit
      dataset := s.dataset, source := s.source, script := s.script, schedule := s.schedule
      hostResp := .write false }

/-- R73, R117. -/
def Obligations.IllegalCommandRaisesCmdErr : Prop :=
  (∀ w : Word, 4 < w.toNat → decode .cmdWord (bytes32 w) = .ok (.cmdIllegal w)) ∧
  (∀ (w : Word) (s : State),
    exec (.cmdIllegal w) s = .next { s with events := s.events ||| 0x100#9, hostResp := .write false })

/-! ## Reset -/

/-- R129: in any state, every register of the core goes to its reset value, the parameters and what lies outside the core
(the Dataset, the offered bytes, the other agents' plans: R130) stay. It differs from SOFT_RESET in the four configuration
registers only. (`hostResp`, the last answer the Host got, is the Host's.) -/
def Obligations.ResetFromAnyState : Prop :=
  ∀ s : State,
    ∃ t u : State, exec .reset s = .next t ∧ exec .softReset s = .next u ∧
      t = { State.reset with
        params := s.params, dataset := s.dataset, source := s.source, script := s.script, schedule := s.schedule
        hostResp := t.hostResp } ∧
      t = { u with ctrl := 0#2, irqEn := 0#9, cycleId := 0#32, resyncLimit := 0#32, hostResp := t.hostResp }

/-- R45, R26: what reset leaves, for any parameters: HUNT, every buffer empty, every register 0 but the constants, and no
port active. -/
def Obligations.ResetStateValues : Prop :=
  ∀ p : Params,
    let s : State := { State.reset with params := p }
    s.phase = .hunt ∧ s.hb = [] ∧ s.pb = [] ∧ s.obj = [] ∧ s.sig = [] ∧ s.emitN = 0 ∧ s.emitIdx = 0 ∧
    s.curCycle = 0#32 ∧ inReady s = false ∧ outValid s = false ∧ irq s = false ∧
    ∀ r : Reg, readReg s r =
      match r with
      | .magicLo => 0x03040102#32
      | .magicHi => 0x07080506#32
      | .cfgPayloadMax => BitVec.ofNat 32 p.payloadMax
      | .cfgMaxObj => BitVec.ofNat 32 p.maxObj
      | _ => 0#32

/-! ## The whole machine -/

/-- The invariant (R24) holds right after reset, for all parameters in the ranges of R7; the default parameters of
`State.reset` are the model's choice (log entry 5). -/
def Obligations.ResetMeetsTheInvariant : Prop :=
  StateInv State.reset ∧ ∀ p : Params, p.legal → StateInv { State.reset with params := p }

/-- R24: every step keeps the invariant, from every state that meets it. -/
def Obligations.StepKeepsTheInvariant : Prop :=
  ∀ s t : State, StateInv s → step s = .next t → StateInv t

/-- R118: no condition stops the block; from every state the step answers a next state. -/
def Obligations.EveryStepGoesOn : Prop := ∀ s : State, ∃ t, step s = .next t

/-- R11, R14 to R18, R44: a step runs what the scheduled agent's port carries, and takes it from that agent; a port that
does not transfer leaves the core as it is (log entries 1 and 2; with nothing scheduled nothing moves, log entry 3). -/
def Obligations.StepRunsTheScheduledTransaction : Prop :=
  (∀ (s : State) (w : PortWord) (i : Instr), fetch s = some w → decode w.format w.bytes = .ok i →
    step s = exec i (consume s)) ∧
  (∀ (s : State) (b : Byte) (bs : List Byte) (ts : List Turn), s.schedule = .source :: ts → s.source = b :: bs →
    enabled s = true →
    (s.phase = .hunt → step s = exec (.byteInHunt b) { s with schedule := ts, source := bs }) ∧
    (s.phase = .payload → step s = exec (.byteInPayload b) { s with schedule := ts, source := bs })) ∧
  (∀ (s : State) (ts : List Turn), s.schedule = .source :: ts → s.source = [] →
    step s = .next { s with schedule := ts }) ∧
  (∀ (s : State) (ts : List Turn), s.schedule = .sink :: ts →
    (s.phase = .emit → step s = exec .rowOut { s with schedule := ts }) ∧
    (s.phase ≠ .emit → step s = .next { s with schedule := ts })) ∧
  (∀ (s : State) (ops : List HostOp) (ts : List Turn), s.schedule = .host :: ts →
    (∀ a, s.script = .access (.read a) :: ops →
      step s = exec (decodeRead a) { s with schedule := ts, script := ops }) ∧
    (∀ a d, s.script = .access (.write a d) :: ops →
      step s = exec (decodeWrite a d) { s with schedule := ts, script := ops }) ∧
    (s.script = [] → step s = .next { s with schedule := ts })) ∧
  (∀ (s : State) (ts : List Turn), s.schedule = .reset :: ts → step s = exec .reset { s with schedule := ts }) ∧
  (∀ s : State, s.schedule = [] → step s = .next s)

/-- R41: the configuration registers change only by their own write and by reset, and CYCLE_ID also, by one, at a commit
with AUTOINC; the parameters never change (R7). -/
def Obligations.OnlyTheHostConfigures : Prop :=
  ∀ (s t : State) (w : PortWord) (i : Instr),
    fetch s = some w → decode w.format w.bytes = .ok i → step s = .next t →
    t.params = s.params ∧
    (i ≠ .reset →
      ((∀ d, i ≠ .ctrlWrite d) → t.ctrl = s.ctrl) ∧
      ((∀ d, i ≠ .irqEnWrite d) → t.irqEn = s.irqEn) ∧
      ((∀ d, i ≠ .resyncLimitWrite d) → t.resyncLimit = s.resyncLimit) ∧
      ((∀ d, i ≠ .cycleIdWrite d) →
        t.cycleId = s.cycleId ∨
        (autoInc s = true ∧ t.cycleId = s.cycleId + 1#32 ∧ t.frameCnt = s.frameCnt + 1#32)))

/-- R30, R43: a pending event is cleared only by writing 1 to its bit, by SOFT_RESET or by reset. -/
def Obligations.EventsAreSticky : Prop :=
  ∀ (s t : State) (e : Event), step s = .next t → pending s e = true → pending t e = false →
    ∃ w i, fetch s = some w ∧ decode w.format w.bytes = .ok i ∧
      ((∃ d, i = .eventsWrite d ∧ d.getLsbD e.bit = true) ∨ i = .softReset ∨ i = .reset)

/-- R101, R106, R130: a step leaves the Dataset as it is or appends the one row the output port presents. -/
def Obligations.DatasetOnlyGrows : Prop :=
  ∀ s t : State, step s = .next t →
    t.dataset = s.dataset ∨
    (s.phase = .emit ∧ (∃ ts, s.schedule = .sink :: ts) ∧ t.dataset = s.dataset ++ [currentTransfer s])

/-- R15, R54: a step leaves the offered bytes as they are or takes the first one, and takes one only with `in_ready = 1`. -/
def Obligations.InputTakesBytesInOrder : Prop :=
  ∀ s t : State, step s = .next t →
    t.source = s.source ∨
    (inReady s = true ∧ (∃ ts, s.schedule = .source :: ts) ∧ ∃ b, s.source = b :: t.source)

/-- R132: with EN = 0, a step of the Source or the Sink changes only ROW_CNT, the phase, the emission state and the
Dataset. -/
def Obligations.DisabledInputFreezesOutcomes : Prop :=
  ∀ (s t : State) (a : Turn) (ts : List Turn), enabled s = false → s.schedule = a :: ts → a ≠ .host → a ≠ .reset →
    step s = .next t →
    t = { s with rowCnt := t.rowCnt, phase := t.phase, obj := t.obj, sig := t.sig, emitN := t.emitN
                 emitIdx := t.emitIdx, dataset := t.dataset, schedule := ts }

/-- R44, R134: in EMIT and HALT the packet diagnostics are stable, whatever step is taken but SOFT_RESET and RESET. -/
def Obligations.DiagnosticsStableOutsideInput : Prop :=
  ∀ s t : State, (s.phase = .emit ∨ s.phase = .halt) → step s = .next t →
    (∀ w, fetch s = some w → decode w.format w.bytes ≠ .ok .softReset ∧ decode w.format w.bytes ≠ .ok .reset) →
    t.lastOutcome = s.lastOutcome ∧ t.lastObjLen = s.lastObjLen ∧ t.lastSigLen = s.lastSigLen ∧
    t.lastRows = s.lastRows ∧ t.lastCycle = s.lastCycle ∧ t.hdr = s.hdr ∧ t.badTlvIndex = s.badTlvIndex ∧
    t.badTlvType = s.badTlvType ∧ t.badTlvLen = s.badTlvLen

/-- R141: at the end of a run no agent but Reset has a transaction. -/
def Obligations.EndOfRunLeavesOnlyReset : Prop :=
  ∀ s : State, runEnded s → ∀ a : Turn, a ≠ .reset → fetchTurn s a = none
end

