-- ==== Sys2Proof/Laws/State.lean ====
section
/-! SUPPORT. One lemma a field for each update of the state, so that no later proof unfolds a record update. -/

namespace Sys2Proof.Machine

variable (s : State)

/-! ### pushHb -/
@[simp] theorem pushHb_params (b : Byte) : (pushHb b s).params = s.params := rfl
@[simp] theorem pushHb_phase (b : Byte) : (pushHb b s).phase = s.phase := rfl
@[simp] theorem pushHb_hb (b : Byte) : (pushHb b s).hb = s.hb ++ [b] := rfl
@[simp] theorem pushHb_pb (b : Byte) : (pushHb b s).pb = s.pb := rfl
@[simp] theorem pushHb_obj (b : Byte) : (pushHb b s).obj = s.obj := rfl
@[simp] theorem pushHb_sig (b : Byte) : (pushHb b s).sig = s.sig := rfl
@[simp] theorem pushHb_emitN (b : Byte) : (pushHb b s).emitN = s.emitN := rfl
@[simp] theorem pushHb_emitIdx (b : Byte) : (pushHb b s).emitIdx = s.emitIdx := rfl
@[simp] theorem pushHb_curCycle (b : Byte) : (pushHb b s).curCycle = s.curCycle := rfl
@[simp] theorem pushHb_ctrl (b : Byte) : (pushHb b s).ctrl = s.ctrl := rfl
@[simp] theorem pushHb_events (b : Byte) : (pushHb b s).events = s.events := rfl
@[simp] theorem pushHb_irqEn (b : Byte) : (pushHb b s).irqEn = s.irqEn := rfl
@[simp] theorem pushHb_cycleId (b : Byte) : (pushHb b s).cycleId = s.cycleId := rfl
@[simp] theorem pushHb_resyncLimit (b : Byte) : (pushHb b s).resyncLimit = s.resyncLimit := rfl
@[simp] theorem pushHb_resyncCnt (b : Byte) : (pushHb b s).resyncCnt = s.resyncCnt := rfl
@[simp] theorem pushHb_frameCnt (b : Byte) : (pushHb b s).frameCnt = s.frameCnt := rfl
@[simp] theorem pushHb_discardCnt (b : Byte) : (pushHb b s).discardCnt = s.discardCnt := rfl
@[simp] theorem pushHb_rowCnt (b : Byte) : (pushHb b s).rowCnt = s.rowCnt := rfl
@[simp] theorem pushHb_lastOutcome (b : Byte) : (pushHb b s).lastOutcome = s.lastOutcome := rfl
@[simp] theorem pushHb_lastObjLen (b : Byte) : (pushHb b s).lastObjLen = s.lastObjLen := rfl
@[simp] theorem pushHb_lastSigLen (b : Byte) : (pushHb b s).lastSigLen = s.lastSigLen := rfl
@[simp] theorem pushHb_lastRows (b : Byte) : (pushHb b s).lastRows = s.lastRows := rfl
@[simp] theorem pushHb_badTlvIndex (b : Byte) : (pushHb b s).badTlvIndex = s.badTlvIndex := rfl
@[simp] theorem pushHb_badTlvType (b : Byte) : (pushHb b s).badTlvType = s.badTlvType := rfl
@[simp] theorem pushHb_badTlvLen (b : Byte) : (pushHb b s).badTlvLen = s.badTlvLen := rfl
@[simp] theorem pushHb_lastCycle (b : Byte) : (pushHb b s).lastCycle = s.lastCycle := rfl
@[simp] theorem pushHb_hdr (b : Byte) : (pushHb b s).hdr = s.hdr := rfl
@[simp] theorem pushHb_loop (b : Byte) : (pushHb b s).loop = s.loop := rfl
@[simp] theorem pushHb_dataset (b : Byte) : (pushHb b s).dataset = s.dataset := rfl
@[simp] theorem pushHb_source (b : Byte) : (pushHb b s).source = s.source := rfl
@[simp] theorem pushHb_script (b : Byte) : (pushHb b s).script = s.script := rfl
@[simp] theorem pushHb_schedule (b : Byte) : (pushHb b s).schedule = s.schedule := rfl
@[simp] theorem pushHb_hostResp (b : Byte) : (pushHb b s).hostResp = s.hostResp := rfl

/-! ### dropHb -/
@[simp] theorem dropHb_params : (dropHb s).params = s.params := rfl
@[simp] theorem dropHb_phase : (dropHb s).phase = s.phase := rfl
@[simp] theorem dropHb_hb : (dropHb s).hb = s.hb.tail := rfl
@[simp] theorem dropHb_pb : (dropHb s).pb = s.pb := rfl
@[simp] theorem dropHb_obj : (dropHb s).obj = s.obj := rfl
@[simp] theorem dropHb_sig : (dropHb s).sig = s.sig := rfl
@[simp] theorem dropHb_emitN : (dropHb s).emitN = s.emitN := rfl
@[simp] theorem dropHb_emitIdx : (dropHb s).emitIdx = s.emitIdx := rfl
@[simp] theorem dropHb_curCycle : (dropHb s).curCycle = s.curCycle := rfl
@[simp] theorem dropHb_ctrl : (dropHb s).ctrl = s.ctrl := rfl
@[simp] theorem dropHb_events : (dropHb s).events = s.events := rfl
@[simp] theorem dropHb_irqEn : (dropHb s).irqEn = s.irqEn := rfl
@[simp] theorem dropHb_cycleId : (dropHb s).cycleId = s.cycleId := rfl
@[simp] theorem dropHb_resyncLimit : (dropHb s).resyncLimit = s.resyncLimit := rfl
@[simp] theorem dropHb_resyncCnt : (dropHb s).resyncCnt = s.resyncCnt := rfl
@[simp] theorem dropHb_frameCnt : (dropHb s).frameCnt = s.frameCnt := rfl
@[simp] theorem dropHb_discardCnt : (dropHb s).discardCnt = s.discardCnt := rfl
@[simp] theorem dropHb_rowCnt : (dropHb s).rowCnt = s.rowCnt := rfl
@[simp] theorem dropHb_lastOutcome : (dropHb s).lastOutcome = s.lastOutcome := rfl
@[simp] theorem dropHb_lastObjLen : (dropHb s).lastObjLen = s.lastObjLen := rfl
@[simp] theorem dropHb_lastSigLen : (dropHb s).lastSigLen = s.lastSigLen := rfl
@[simp] theorem dropHb_lastRows : (dropHb s).lastRows = s.lastRows := rfl
@[simp] theorem dropHb_badTlvIndex : (dropHb s).badTlvIndex = s.badTlvIndex := rfl
@[simp] theorem dropHb_badTlvType : (dropHb s).badTlvType = s.badTlvType := rfl
@[simp] theorem dropHb_badTlvLen : (dropHb s).badTlvLen = s.badTlvLen := rfl
@[simp] theorem dropHb_lastCycle : (dropHb s).lastCycle = s.lastCycle := rfl
@[simp] theorem dropHb_hdr : (dropHb s).hdr = s.hdr := rfl
@[simp] theorem dropHb_loop : (dropHb s).loop = s.loop := rfl
@[simp] theorem dropHb_dataset : (dropHb s).dataset = s.dataset := rfl
@[simp] theorem dropHb_source : (dropHb s).source = s.source := rfl
@[simp] theorem dropHb_script : (dropHb s).script = s.script := rfl
@[simp] theorem dropHb_schedule : (dropHb s).schedule = s.schedule := rfl
@[simp] theorem dropHb_hostResp : (dropHb s).hostResp = s.hostResp := rfl

/-! ### pushPb -/
@[simp] theorem pushPb_params (b : Byte) : (pushPb b s).params = s.params := rfl
@[simp] theorem pushPb_phase (b : Byte) : (pushPb b s).phase = s.phase := rfl
@[simp] theorem pushPb_hb (b : Byte) : (pushPb b s).hb = s.hb := rfl
@[simp] theorem pushPb_pb (b : Byte) : (pushPb b s).pb = s.pb ++ [b] := rfl
@[simp] theorem pushPb_obj (b : Byte) : (pushPb b s).obj = s.obj := rfl
@[simp] theorem pushPb_sig (b : Byte) : (pushPb b s).sig = s.sig := rfl
@[simp] theorem pushPb_emitN (b : Byte) : (pushPb b s).emitN = s.emitN := rfl
@[simp] theorem pushPb_emitIdx (b : Byte) : (pushPb b s).emitIdx = s.emitIdx := rfl
@[simp] theorem pushPb_curCycle (b : Byte) : (pushPb b s).curCycle = s.curCycle := rfl
@[simp] theorem pushPb_ctrl (b : Byte) : (pushPb b s).ctrl = s.ctrl := rfl
@[simp] theorem pushPb_events (b : Byte) : (pushPb b s).events = s.events := rfl
@[simp] theorem pushPb_irqEn (b : Byte) : (pushPb b s).irqEn = s.irqEn := rfl
@[simp] theorem pushPb_cycleId (b : Byte) : (pushPb b s).cycleId = s.cycleId := rfl
@[simp] theorem pushPb_resyncLimit (b : Byte) : (pushPb b s).resyncLimit = s.resyncLimit := rfl
@[simp] theorem pushPb_resyncCnt (b : Byte) : (pushPb b s).resyncCnt = s.resyncCnt := rfl
@[simp] theorem pushPb_frameCnt (b : Byte) : (pushPb b s).frameCnt = s.frameCnt := rfl
@[simp] theorem pushPb_discardCnt (b : Byte) : (pushPb b s).discardCnt = s.discardCnt := rfl
@[simp] theorem pushPb_rowCnt (b : Byte) : (pushPb b s).rowCnt = s.rowCnt := rfl
@[simp] theorem pushPb_lastOutcome (b : Byte) : (pushPb b s).lastOutcome = s.lastOutcome := rfl
@[simp] theorem pushPb_lastObjLen (b : Byte) : (pushPb b s).lastObjLen = s.lastObjLen := rfl
@[simp] theorem pushPb_lastSigLen (b : Byte) : (pushPb b s).lastSigLen = s.lastSigLen := rfl
@[simp] theorem pushPb_lastRows (b : Byte) : (pushPb b s).lastRows = s.lastRows := rfl
@[simp] theorem pushPb_badTlvIndex (b : Byte) : (pushPb b s).badTlvIndex = s.badTlvIndex := rfl
@[simp] theorem pushPb_badTlvType (b : Byte) : (pushPb b s).badTlvType = s.badTlvType := rfl
@[simp] theorem pushPb_badTlvLen (b : Byte) : (pushPb b s).badTlvLen = s.badTlvLen := rfl
@[simp] theorem pushPb_lastCycle (b : Byte) : (pushPb b s).lastCycle = s.lastCycle := rfl
@[simp] theorem pushPb_hdr (b : Byte) : (pushPb b s).hdr = s.hdr := rfl
@[simp] theorem pushPb_loop (b : Byte) : (pushPb b s).loop = s.loop := rfl
@[simp] theorem pushPb_dataset (b : Byte) : (pushPb b s).dataset = s.dataset := rfl
@[simp] theorem pushPb_source (b : Byte) : (pushPb b s).source = s.source := rfl
@[simp] theorem pushPb_script (b : Byte) : (pushPb b s).script = s.script := rfl
@[simp] theorem pushPb_schedule (b : Byte) : (pushPb b s).schedule = s.schedule := rfl
@[simp] theorem pushPb_hostResp (b : Byte) : (pushPb b s).hostResp = s.hostResp := rfl

/-! ### clearEmission -/
@[simp] theorem clearEmission_params : (clearEmission s).params = s.params := rfl
@[simp] theorem clearEmission_phase : (clearEmission s).phase = .hunt := rfl
@[simp] theorem clearEmission_hb : (clearEmission s).hb = s.hb := rfl
@[simp] theorem clearEmission_pb : (clearEmission s).pb = s.pb := rfl
@[simp] theorem clearEmission_obj : (clearEmission s).obj = [] := rfl
@[simp] theorem clearEmission_sig : (clearEmission s).sig = [] := rfl
@[simp] theorem clearEmission_emitN : (clearEmission s).emitN = 0 := rfl
@[simp] theorem clearEmission_emitIdx : (clearEmission s).emitIdx = 0 := rfl
@[simp] theorem clearEmission_curCycle : (clearEmission s).curCycle = s.curCycle := rfl
@[simp] theorem clearEmission_ctrl : (clearEmission s).ctrl = s.ctrl := rfl
@[simp] theorem clearEmission_events : (clearEmission s).events = s.events := rfl
@[simp] theorem clearEmission_irqEn : (clearEmission s).irqEn = s.irqEn := rfl
@[simp] theorem clearEmission_cycleId : (clearEmission s).cycleId = s.cycleId := rfl
@[simp] theorem clearEmission_resyncLimit : (clearEmission s).resyncLimit = s.resyncLimit := rfl
@[simp] theorem clearEmission_resyncCnt : (clearEmission s).resyncCnt = s.resyncCnt := rfl
@[simp] theorem clearEmission_frameCnt : (clearEmission s).frameCnt = s.frameCnt := rfl
@[simp] theorem clearEmission_discardCnt : (clearEmission s).discardCnt = s.discardCnt := rfl
@[simp] theorem clearEmission_rowCnt : (clearEmission s).rowCnt = s.rowCnt := rfl
@[simp] theorem clearEmission_lastOutcome : (clearEmission s).lastOutcome = s.lastOutcome := rfl
@[simp] theorem clearEmission_lastObjLen : (clearEmission s).lastObjLen = s.lastObjLen := rfl
@[simp] theorem clearEmission_lastSigLen : (clearEmission s).lastSigLen = s.lastSigLen := rfl
@[simp] theorem clearEmission_lastRows : (clearEmission s).lastRows = s.lastRows := rfl
@[simp] theorem clearEmission_badTlvIndex : (clearEmission s).badTlvIndex = s.badTlvIndex := rfl
@[simp] theorem clearEmission_badTlvType : (clearEmission s).badTlvType = s.badTlvType := rfl
@[simp] theorem clearEmission_badTlvLen : (clearEmission s).badTlvLen = s.badTlvLen := rfl
@[simp] theorem clearEmission_lastCycle : (clearEmission s).lastCycle = s.lastCycle := rfl
@[simp] theorem clearEmission_hdr : (clearEmission s).hdr = s.hdr := rfl
@[simp] theorem clearEmission_loop : (clearEmission s).loop = s.loop := rfl
@[simp] theorem clearEmission_dataset : (clearEmission s).dataset = s.dataset := rfl
@[simp] theorem clearEmission_source : (clearEmission s).source = s.source := rfl
@[simp] theorem clearEmission_script : (clearEmission s).script = s.script := rfl
@[simp] theorem clearEmission_schedule : (clearEmission s).schedule = s.schedule := rfl
@[simp] theorem clearEmission_hostResp : (clearEmission s).hostResp = s.hostResp := rfl

/-! ### recordOutcome -/
@[simp] theorem recordOutcome_params (code : BitVec 7) : (recordOutcome code s).params = s.params := rfl
@[simp] theorem recordOutcome_phase (code : BitVec 7) : (recordOutcome code s).phase = s.phase := rfl
@[simp] theorem recordOutcome_hb (code : BitVec 7) : (recordOutcome code s).hb = s.hb := rfl
@[simp] theorem recordOutcome_pb (code : BitVec 7) : (recordOutcome code s).pb = s.pb := rfl
@[simp] theorem recordOutcome_obj (code : BitVec 7) : (recordOutcome code s).obj = s.obj := rfl
@[simp] theorem recordOutcome_sig (code : BitVec 7) : (recordOutcome code s).sig = s.sig := rfl
@[simp] theorem recordOutcome_emitN (code : BitVec 7) : (recordOutcome code s).emitN = s.emitN := rfl
@[simp] theorem recordOutcome_emitIdx (code : BitVec 7) : (recordOutcome code s).emitIdx = s.emitIdx := rfl
@[simp] theorem recordOutcome_curCycle (code : BitVec 7) : (recordOutcome code s).curCycle = s.curCycle := rfl
@[simp] theorem recordOutcome_ctrl (code : BitVec 7) : (recordOutcome code s).ctrl = s.ctrl := rfl
@[simp] theorem recordOutcome_events (code : BitVec 7) : (recordOutcome code s).events = s.events := rfl
@[simp] theorem recordOutcome_irqEn (code : BitVec 7) : (recordOutcome code s).irqEn = s.irqEn := rfl
@[simp] theorem recordOutcome_cycleId (code : BitVec 7) : (recordOutcome code s).cycleId = s.cycleId := rfl
@[simp] theorem recordOutcome_resyncLimit (code : BitVec 7) : (recordOutcome code s).resyncLimit = s.resyncLimit := rfl
@[simp] theorem recordOutcome_resyncCnt (code : BitVec 7) : (recordOutcome code s).resyncCnt = s.resyncCnt := rfl
@[simp] theorem recordOutcome_frameCnt (code : BitVec 7) : (recordOutcome code s).frameCnt = s.frameCnt := rfl
@[simp] theorem recordOutcome_discardCnt (code : BitVec 7) : (recordOutcome code s).discardCnt = s.discardCnt := rfl
@[simp] theorem recordOutcome_rowCnt (code : BitVec 7) : (recordOutcome code s).rowCnt = s.rowCnt := rfl
@[simp] theorem recordOutcome_lastOutcome (code : BitVec 7) : (recordOutcome code s).lastOutcome = code := rfl
@[simp] theorem recordOutcome_lastObjLen (code : BitVec 7) : (recordOutcome code s).lastObjLen = 0#32 := rfl
@[simp] theorem recordOutcome_lastSigLen (code : BitVec 7) : (recordOutcome code s).lastSigLen = 0#32 := rfl
@[simp] theorem recordOutcome_lastRows (code : BitVec 7) : (recordOutcome code s).lastRows = 0#32 := rfl
@[simp] theorem recordOutcome_badTlvIndex (code : BitVec 7) : (recordOutcome code s).badTlvIndex = s.badTlvIndex := rfl
@[simp] theorem recordOutcome_badTlvType (code : BitVec 7) : (recordOutcome code s).badTlvType = s.badTlvType := rfl
@[simp] theorem recordOutcome_badTlvLen (code : BitVec 7) : (recordOutcome code s).badTlvLen = s.badTlvLen := rfl
@[simp] theorem recordOutcome_lastCycle (code : BitVec 7) : (recordOutcome code s).lastCycle = s.lastCycle := rfl
@[simp] theorem recordOutcome_hdr (code : BitVec 7) : (recordOutcome code s).hdr = s.hdr := rfl
@[simp] theorem recordOutcome_loop (code : BitVec 7) : (recordOutcome code s).loop = s.loop := rfl
@[simp] theorem recordOutcome_dataset (code : BitVec 7) : (recordOutcome code s).dataset = s.dataset := rfl
@[simp] theorem recordOutcome_source (code : BitVec 7) : (recordOutcome code s).source = s.source := rfl
@[simp] theorem recordOutcome_script (code : BitVec 7) : (recordOutcome code s).script = s.script := rfl
@[simp] theorem recordOutcome_schedule (code : BitVec 7) : (recordOutcome code s).schedule = s.schedule := rfl
@[simp] theorem recordOutcome_hostResp (code : BitVec 7) : (recordOutcome code s).hostResp = s.hostResp := rfl

/-! ### raise -/
@[simp] theorem raise_params (e : Event) : (raise e s).params = s.params := rfl
@[simp] theorem raise_phase (e : Event) : (raise e s).phase = s.phase := rfl
@[simp] theorem raise_hb (e : Event) : (raise e s).hb = s.hb := rfl
@[simp] theorem raise_pb (e : Event) : (raise e s).pb = s.pb := rfl
@[simp] theorem raise_obj (e : Event) : (raise e s).obj = s.obj := rfl
@[simp] theorem raise_sig (e : Event) : (raise e s).sig = s.sig := rfl
@[simp] theorem raise_emitN (e : Event) : (raise e s).emitN = s.emitN := rfl
@[simp] theorem raise_emitIdx (e : Event) : (raise e s).emitIdx = s.emitIdx := rfl
@[simp] theorem raise_curCycle (e : Event) : (raise e s).curCycle = s.curCycle := rfl
@[simp] theorem raise_ctrl (e : Event) : (raise e s).ctrl = s.ctrl := rfl
@[simp] theorem raise_events (e : Event) : (raise e s).events = s.events ||| e.mask := rfl
@[simp] theorem raise_irqEn (e : Event) : (raise e s).irqEn = s.irqEn := rfl
@[simp] theorem raise_cycleId (e : Event) : (raise e s).cycleId = s.cycleId := rfl
@[simp] theorem raise_resyncLimit (e : Event) : (raise e s).resyncLimit = s.resyncLimit := rfl
@[simp] theorem raise_resyncCnt (e : Event) : (raise e s).resyncCnt = s.resyncCnt := rfl
@[simp] theorem raise_frameCnt (e : Event) : (raise e s).frameCnt = s.frameCnt := rfl
@[simp] theorem raise_discardCnt (e : Event) : (raise e s).discardCnt = s.discardCnt := rfl
@[simp] theorem raise_rowCnt (e : Event) : (raise e s).rowCnt = s.rowCnt := rfl
@[simp] theorem raise_lastOutcome (e : Event) : (raise e s).lastOutcome = s.lastOutcome := rfl
@[simp] theorem raise_lastObjLen (e : Event) : (raise e s).lastObjLen = s.lastObjLen := rfl
@[simp] theorem raise_lastSigLen (e : Event) : (raise e s).lastSigLen = s.lastSigLen := rfl
@[simp] theorem raise_lastRows (e : Event) : (raise e s).lastRows = s.lastRows := rfl
@[simp] theorem raise_badTlvIndex (e : Event) : (raise e s).badTlvIndex = s.badTlvIndex := rfl
@[simp] theorem raise_badTlvType (e : Event) : (raise e s).badTlvType = s.badTlvType := rfl
@[simp] theorem raise_badTlvLen (e : Event) : (raise e s).badTlvLen = s.badTlvLen := rfl
@[simp] theorem raise_lastCycle (e : Event) : (raise e s).lastCycle = s.lastCycle := rfl
@[simp] theorem raise_hdr (e : Event) : (raise e s).hdr = s.hdr := rfl
@[simp] theorem raise_loop (e : Event) : (raise e s).loop = s.loop := rfl
@[simp] theorem raise_dataset (e : Event) : (raise e s).dataset = s.dataset := rfl
@[simp] theorem raise_source (e : Event) : (raise e s).source = s.source := rfl
@[simp] theorem raise_script (e : Event) : (raise e s).script = s.script := rfl
@[simp] theorem raise_schedule (e : Event) : (raise e s).schedule = s.schedule := rfl
@[simp] theorem raise_hostResp (e : Event) : (raise e s).hostResp = s.hostResp := rfl

/-! ### enterDiscard -/
@[simp] theorem enterDiscard_params (e : Event) (code : BitVec 7) : (enterDiscard e code s).params = s.params := rfl
@[simp] theorem enterDiscard_phase (e : Event) (code : BitVec 7) : (enterDiscard e code s).phase = .hunt := rfl
@[simp] theorem enterDiscard_hb (e : Event) (code : BitVec 7) : (enterDiscard e code s).hb = [] := rfl
@[simp] theorem enterDiscard_pb (e : Event) (code : BitVec 7) : (enterDiscard e code s).pb = [] := rfl
@[simp] theorem enterDiscard_obj (e : Event) (code : BitVec 7) : (enterDiscard e code s).obj = [] := rfl
@[simp] theorem enterDiscard_sig (e : Event) (code : BitVec 7) : (enterDiscard e code s).sig = [] := rfl
@[simp] theorem enterDiscard_emitN (e : Event) (code : BitVec 7) : (enterDiscard e code s).emitN = s.emitN := rfl
@[simp] theorem enterDiscard_emitIdx (e : Event) (code : BitVec 7) : (enterDiscard e code s).emitIdx = s.emitIdx := rfl
@[simp] theorem enterDiscard_curCycle (e : Event) (code : BitVec 7) : (enterDiscard e code s).curCycle = s.curCycle := rfl
@[simp] theorem enterDiscard_ctrl (e : Event) (code : BitVec 7) : (enterDiscard e code s).ctrl = s.ctrl := rfl
@[simp] theorem enterDiscard_events (e : Event) (code : BitVec 7) : (enterDiscard e code s).events = s.events ||| e.mask := rfl
@[simp] theorem enterDiscard_irqEn (e : Event) (code : BitVec 7) : (enterDiscard e code s).irqEn = s.irqEn := rfl
@[simp] theorem enterDiscard_cycleId (e : Event) (code : BitVec 7) : (enterDiscard e code s).cycleId = s.cycleId := rfl
@[simp] theorem enterDiscard_resyncLimit (e : Event) (code : BitVec 7) : (enterDiscard e code s).resyncLimit = s.resyncLimit := rfl
@[simp] theorem enterDiscard_resyncCnt (e : Event) (code : BitVec 7) : (enterDiscard e code s).resyncCnt = s.resyncCnt := rfl
@[simp] theorem enterDiscard_frameCnt (e : Event) (code : BitVec 7) : (enterDiscard e code s).frameCnt = s.frameCnt := rfl
@[simp] theorem enterDiscard_discardCnt (e : Event) (code : BitVec 7) : (enterDiscard e code s).discardCnt = wrap32 (s.discardCnt.toNat + 1) := rfl
@[simp] theorem enterDiscard_rowCnt (e : Event) (code : BitVec 7) : (enterDiscard e code s).rowCnt = s.rowCnt := rfl
@[simp] theorem enterDiscard_lastOutcome (e : Event) (code : BitVec 7) : (enterDiscard e code s).lastOutcome = code := rfl
@[simp] theorem enterDiscard_lastObjLen (e : Event) (code : BitVec 7) : (enterDiscard e code s).lastObjLen = 0#32 := rfl
@[simp] theorem enterDiscard_lastSigLen (e : Event) (code : BitVec 7) : (enterDiscard e code s).lastSigLen = 0#32 := rfl
@[simp] theorem enterDiscard_lastRows (e : Event) (code : BitVec 7) : (enterDiscard e code s).lastRows = 0#32 := rfl
@[simp] theorem enterDiscard_badTlvIndex (e : Event) (code : BitVec 7) : (enterDiscard e code s).badTlvIndex = s.badTlvIndex := rfl
@[simp] theorem enterDiscard_badTlvType (e : Event) (code : BitVec 7) : (enterDiscard e code s).badTlvType = s.badTlvType := rfl
@[simp] theorem enterDiscard_badTlvLen (e : Event) (code : BitVec 7) : (enterDiscard e code s).badTlvLen = s.badTlvLen := rfl
@[simp] theorem enterDiscard_lastCycle (e : Event) (code : BitVec 7) : (enterDiscard e code s).lastCycle = s.lastCycle := rfl
@[simp] theorem enterDiscard_hdr (e : Event) (code : BitVec 7) : (enterDiscard e code s).hdr = s.hdr := rfl
@[simp] theorem enterDiscard_loop (e : Event) (code : BitVec 7) : (enterDiscard e code s).loop = s.loop := rfl
@[simp] theorem enterDiscard_dataset (e : Event) (code : BitVec 7) : (enterDiscard e code s).dataset = s.dataset := rfl
@[simp] theorem enterDiscard_source (e : Event) (code : BitVec 7) : (enterDiscard e code s).source = s.source := rfl
@[simp] theorem enterDiscard_script (e : Event) (code : BitVec 7) : (enterDiscard e code s).script = s.script := rfl
@[simp] theorem enterDiscard_schedule (e : Event) (code : BitVec 7) : (enterDiscard e code s).schedule = s.schedule := rfl
@[simp] theorem enterDiscard_hostResp (e : Event) (code : BitVec 7) : (enterDiscard e code s).hostResp = s.hostResp := rfl

/-! ### answerRead -/
@[simp] theorem answerRead_params (data : Word) (err : Bool) : (answerRead data err s).params = s.params := rfl
@[simp] theorem answerRead_phase (data : Word) (err : Bool) : (answerRead data err s).phase = s.phase := rfl
@[simp] theorem answerRead_hb (data : Word) (err : Bool) : (answerRead data err s).hb = s.hb := rfl
@[simp] theorem answerRead_pb (data : Word) (err : Bool) : (answerRead data err s).pb = s.pb := rfl
@[simp] theorem answerRead_obj (data : Word) (err : Bool) : (answerRead data err s).obj = s.obj := rfl
@[simp] theorem answerRead_sig (data : Word) (err : Bool) : (answerRead data err s).sig = s.sig := rfl
@[simp] theorem answerRead_emitN (data : Word) (err : Bool) : (answerRead data err s).emitN = s.emitN := rfl
@[simp] theorem answerRead_emitIdx (data : Word) (err : Bool) : (answerRead data err s).emitIdx = s.emitIdx := rfl
@[simp] theorem answerRead_curCycle (data : Word) (err : Bool) : (answerRead data err s).curCycle = s.curCycle := rfl
@[simp] theorem answerRead_ctrl (data : Word) (err : Bool) : (answerRead data err s).ctrl = s.ctrl := rfl
@[simp] theorem answerRead_events (data : Word) (err : Bool) : (answerRead data err s).events = s.events := rfl
@[simp] theorem answerRead_irqEn (data : Word) (err : Bool) : (answerRead data err s).irqEn = s.irqEn := rfl
@[simp] theorem answerRead_cycleId (data : Word) (err : Bool) : (answerRead data err s).cycleId = s.cycleId := rfl
@[simp] theorem answerRead_resyncLimit (data : Word) (err : Bool) : (answerRead data err s).resyncLimit = s.resyncLimit := rfl
@[simp] theorem answerRead_resyncCnt (data : Word) (err : Bool) : (answerRead data err s).resyncCnt = s.resyncCnt := rfl
@[simp] theorem answerRead_frameCnt (data : Word) (err : Bool) : (answerRead data err s).frameCnt = s.frameCnt := rfl
@[simp] theorem answerRead_discardCnt (data : Word) (err : Bool) : (answerRead data err s).discardCnt = s.discardCnt := rfl
@[simp] theorem answerRead_rowCnt (data : Word) (err : Bool) : (answerRead data err s).rowCnt = s.rowCnt := rfl
@[simp] theorem answerRead_lastOutcome (data : Word) (err : Bool) : (answerRead data err s).lastOutcome = s.lastOutcome := rfl
@[simp] theorem answerRead_lastObjLen (data : Word) (err : Bool) : (answerRead data err s).lastObjLen = s.lastObjLen := rfl
@[simp] theorem answerRead_lastSigLen (data : Word) (err : Bool) : (answerRead data err s).lastSigLen = s.lastSigLen := rfl
@[simp] theorem answerRead_lastRows (data : Word) (err : Bool) : (answerRead data err s).lastRows = s.lastRows := rfl
@[simp] theorem answerRead_badTlvIndex (data : Word) (err : Bool) : (answerRead data err s).badTlvIndex = s.badTlvIndex := rfl
@[simp] theorem answerRead_badTlvType (data : Word) (err : Bool) : (answerRead data err s).badTlvType = s.badTlvType := rfl
@[simp] theorem answerRead_badTlvLen (data : Word) (err : Bool) : (answerRead data err s).badTlvLen = s.badTlvLen := rfl
@[simp] theorem answerRead_lastCycle (data : Word) (err : Bool) : (answerRead data err s).lastCycle = s.lastCycle := rfl
@[simp] theorem answerRead_hdr (data : Word) (err : Bool) : (answerRead data err s).hdr = s.hdr := rfl
@[simp] theorem answerRead_loop (data : Word) (err : Bool) : (answerRead data err s).loop = s.loop := rfl
@[simp] theorem answerRead_dataset (data : Word) (err : Bool) : (answerRead data err s).dataset = s.dataset := rfl
@[simp] theorem answerRead_source (data : Word) (err : Bool) : (answerRead data err s).source = s.source := rfl
@[simp] theorem answerRead_script (data : Word) (err : Bool) : (answerRead data err s).script = s.script := rfl
@[simp] theorem answerRead_schedule (data : Word) (err : Bool) : (answerRead data err s).schedule = s.schedule := rfl
@[simp] theorem answerRead_hostResp (data : Word) (err : Bool) : (answerRead data err s).hostResp = .read data err := rfl

/-! ### answerWrite -/
@[simp] theorem answerWrite_params (err : Bool) : (answerWrite err s).params = s.params := rfl
@[simp] theorem answerWrite_phase (err : Bool) : (answerWrite err s).phase = s.phase := rfl
@[simp] theorem answerWrite_hb (err : Bool) : (answerWrite err s).hb = s.hb := rfl
@[simp] theorem answerWrite_pb (err : Bool) : (answerWrite err s).pb = s.pb := rfl
@[simp] theorem answerWrite_obj (err : Bool) : (answerWrite err s).obj = s.obj := rfl
@[simp] theorem answerWrite_sig (err : Bool) : (answerWrite err s).sig = s.sig := rfl
@[simp] theorem answerWrite_emitN (err : Bool) : (answerWrite err s).emitN = s.emitN := rfl
@[simp] theorem answerWrite_emitIdx (err : Bool) : (answerWrite err s).emitIdx = s.emitIdx := rfl
@[simp] theorem answerWrite_curCycle (err : Bool) : (answerWrite err s).curCycle = s.curCycle := rfl
@[simp] theorem answerWrite_ctrl (err : Bool) : (answerWrite err s).ctrl = s.ctrl := rfl
@[simp] theorem answerWrite_events (err : Bool) : (answerWrite err s).events = s.events := rfl
@[simp] theorem answerWrite_irqEn (err : Bool) : (answerWrite err s).irqEn = s.irqEn := rfl
@[simp] theorem answerWrite_cycleId (err : Bool) : (answerWrite err s).cycleId = s.cycleId := rfl
@[simp] theorem answerWrite_resyncLimit (err : Bool) : (answerWrite err s).resyncLimit = s.resyncLimit := rfl
@[simp] theorem answerWrite_resyncCnt (err : Bool) : (answerWrite err s).resyncCnt = s.resyncCnt := rfl
@[simp] theorem answerWrite_frameCnt (err : Bool) : (answerWrite err s).frameCnt = s.frameCnt := rfl
@[simp] theorem answerWrite_discardCnt (err : Bool) : (answerWrite err s).discardCnt = s.discardCnt := rfl
@[simp] theorem answerWrite_rowCnt (err : Bool) : (answerWrite err s).rowCnt = s.rowCnt := rfl
@[simp] theorem answerWrite_lastOutcome (err : Bool) : (answerWrite err s).lastOutcome = s.lastOutcome := rfl
@[simp] theorem answerWrite_lastObjLen (err : Bool) : (answerWrite err s).lastObjLen = s.lastObjLen := rfl
@[simp] theorem answerWrite_lastSigLen (err : Bool) : (answerWrite err s).lastSigLen = s.lastSigLen := rfl
@[simp] theorem answerWrite_lastRows (err : Bool) : (answerWrite err s).lastRows = s.lastRows := rfl
@[simp] theorem answerWrite_badTlvIndex (err : Bool) : (answerWrite err s).badTlvIndex = s.badTlvIndex := rfl
@[simp] theorem answerWrite_badTlvType (err : Bool) : (answerWrite err s).badTlvType = s.badTlvType := rfl
@[simp] theorem answerWrite_badTlvLen (err : Bool) : (answerWrite err s).badTlvLen = s.badTlvLen := rfl
@[simp] theorem answerWrite_lastCycle (err : Bool) : (answerWrite err s).lastCycle = s.lastCycle := rfl
@[simp] theorem answerWrite_hdr (err : Bool) : (answerWrite err s).hdr = s.hdr := rfl
@[simp] theorem answerWrite_loop (err : Bool) : (answerWrite err s).loop = s.loop := rfl
@[simp] theorem answerWrite_dataset (err : Bool) : (answerWrite err s).dataset = s.dataset := rfl
@[simp] theorem answerWrite_source (err : Bool) : (answerWrite err s).source = s.source := rfl
@[simp] theorem answerWrite_script (err : Bool) : (answerWrite err s).script = s.script := rfl
@[simp] theorem answerWrite_schedule (err : Bool) : (answerWrite err s).schedule = s.schedule := rfl
@[simp] theorem answerWrite_hostResp (err : Bool) : (answerWrite err s).hostResp = .write err := rfl

/-! ### applyDiscard -/
@[simp] theorem applyDiscard_params (i t l : Word) : (applyDiscard i t l s).params = s.params := rfl
@[simp] theorem applyDiscard_phase (i t l : Word) : (applyDiscard i t l s).phase = .hunt := rfl
@[simp] theorem applyDiscard_hb (i t l : Word) : (applyDiscard i t l s).hb = [] := rfl
@[simp] theorem applyDiscard_pb (i t l : Word) : (applyDiscard i t l s).pb = [] := rfl
@[simp] theorem applyDiscard_obj (i t l : Word) : (applyDiscard i t l s).obj = [] := rfl
@[simp] theorem applyDiscard_sig (i t l : Word) : (applyDiscard i t l s).sig = [] := rfl
@[simp] theorem applyDiscard_emitN (i t l : Word) : (applyDiscard i t l s).emitN = s.emitN := rfl
@[simp] theorem applyDiscard_emitIdx (i t l : Word) : (applyDiscard i t l s).emitIdx = s.emitIdx := rfl
@[simp] theorem applyDiscard_curCycle (i t l : Word) : (applyDiscard i t l s).curCycle = s.curCycle := rfl
@[simp] theorem applyDiscard_ctrl (i t l : Word) : (applyDiscard i t l s).ctrl = s.ctrl := rfl
@[simp] theorem applyDiscard_events (i t l : Word) : (applyDiscard i t l s).events = s.events ||| Event.tlvBad.mask := rfl
@[simp] theorem applyDiscard_irqEn (i t l : Word) : (applyDiscard i t l s).irqEn = s.irqEn := rfl
@[simp] theorem applyDiscard_cycleId (i t l : Word) : (applyDiscard i t l s).cycleId = s.cycleId := rfl
@[simp] theorem applyDiscard_resyncLimit (i t l : Word) : (applyDiscard i t l s).resyncLimit = s.resyncLimit := rfl
@[simp] theorem applyDiscard_resyncCnt (i t l : Word) : (applyDiscard i t l s).resyncCnt = s.resyncCnt := rfl
@[simp] theorem applyDiscard_frameCnt (i t l : Word) : (applyDiscard i t l s).frameCnt = s.frameCnt := rfl
@[simp] theorem applyDiscard_discardCnt (i t l : Word) : (applyDiscard i t l s).discardCnt = wrap32 (s.discardCnt.toNat + 1) := rfl
@[simp] theorem applyDiscard_rowCnt (i t l : Word) : (applyDiscard i t l s).rowCnt = s.rowCnt := rfl
@[simp] theorem applyDiscard_lastOutcome (i t l : Word) : (applyDiscard i t l s).lastOutcome = outcomeTlvBad := rfl
@[simp] theorem applyDiscard_lastObjLen (i t l : Word) : (applyDiscard i t l s).lastObjLen = 0#32 := rfl
@[simp] theorem applyDiscard_lastSigLen (i t l : Word) : (applyDiscard i t l s).lastSigLen = 0#32 := rfl
@[simp] theorem applyDiscard_lastRows (i t l : Word) : (applyDiscard i t l s).lastRows = 0#32 := rfl
@[simp] theorem applyDiscard_badTlvIndex (i t l : Word) : (applyDiscard i t l s).badTlvIndex = i := rfl
@[simp] theorem applyDiscard_badTlvType (i t l : Word) : (applyDiscard i t l s).badTlvType = t := rfl
@[simp] theorem applyDiscard_badTlvLen (i t l : Word) : (applyDiscard i t l s).badTlvLen = l := rfl
@[simp] theorem applyDiscard_lastCycle (i t l : Word) : (applyDiscard i t l s).lastCycle = s.lastCycle := rfl
@[simp] theorem applyDiscard_hdr (i t l : Word) : (applyDiscard i t l s).hdr = s.hdr := rfl
@[simp] theorem applyDiscard_loop (i t l : Word) : (applyDiscard i t l s).loop = s.loop := rfl
@[simp] theorem applyDiscard_dataset (i t l : Word) : (applyDiscard i t l s).dataset = s.dataset := rfl
@[simp] theorem applyDiscard_source (i t l : Word) : (applyDiscard i t l s).source = s.source := rfl
@[simp] theorem applyDiscard_script (i t l : Word) : (applyDiscard i t l s).script = s.script := rfl
@[simp] theorem applyDiscard_schedule (i t l : Word) : (applyDiscard i t l s).schedule = s.schedule := rfl
@[simp] theorem applyDiscard_hostResp (i t l : Word) : (applyDiscard i t l s).hostResp = s.hostResp := rfl

/-! ### writeCtrl -/
@[simp] theorem writeCtrl_params (d : Word) : (writeCtrl d s).params = s.params := rfl
@[simp] theorem writeCtrl_phase (d : Word) : (writeCtrl d s).phase = s.phase := rfl
@[simp] theorem writeCtrl_hb (d : Word) : (writeCtrl d s).hb = s.hb := rfl
@[simp] theorem writeCtrl_pb (d : Word) : (writeCtrl d s).pb = s.pb := rfl
@[simp] theorem writeCtrl_obj (d : Word) : (writeCtrl d s).obj = s.obj := rfl
@[simp] theorem writeCtrl_sig (d : Word) : (writeCtrl d s).sig = s.sig := rfl
@[simp] theorem writeCtrl_emitN (d : Word) : (writeCtrl d s).emitN = s.emitN := rfl
@[simp] theorem writeCtrl_emitIdx (d : Word) : (writeCtrl d s).emitIdx = s.emitIdx := rfl
@[simp] theorem writeCtrl_curCycle (d : Word) : (writeCtrl d s).curCycle = s.curCycle := rfl
@[simp] theorem writeCtrl_ctrl (d : Word) : (writeCtrl d s).ctrl = d.extractLsb' 0 2 := rfl
@[simp] theorem writeCtrl_events (d : Word) : (writeCtrl d s).events = s.events := rfl
@[simp] theorem writeCtrl_irqEn (d : Word) : (writeCtrl d s).irqEn = s.irqEn := rfl
@[simp] theorem writeCtrl_cycleId (d : Word) : (writeCtrl d s).cycleId = s.cycleId := rfl
@[simp] theorem writeCtrl_resyncLimit (d : Word) : (writeCtrl d s).resyncLimit = s.resyncLimit := rfl
@[simp] theorem writeCtrl_resyncCnt (d : Word) : (writeCtrl d s).resyncCnt = s.resyncCnt := rfl
@[simp] theorem writeCtrl_frameCnt (d : Word) : (writeCtrl d s).frameCnt = s.frameCnt := rfl
@[simp] theorem writeCtrl_discardCnt (d : Word) : (writeCtrl d s).discardCnt = s.discardCnt := rfl
@[simp] theorem writeCtrl_rowCnt (d : Word) : (writeCtrl d s).rowCnt = s.rowCnt := rfl
@[simp] theorem writeCtrl_lastOutcome (d : Word) : (writeCtrl d s).lastOutcome = s.lastOutcome := rfl
@[simp] theorem writeCtrl_lastObjLen (d : Word) : (writeCtrl d s).lastObjLen = s.lastObjLen := rfl
@[simp] theorem writeCtrl_lastSigLen (d : Word) : (writeCtrl d s).lastSigLen = s.lastSigLen := rfl
@[simp] theorem writeCtrl_lastRows (d : Word) : (writeCtrl d s).lastRows = s.lastRows := rfl
@[simp] theorem writeCtrl_badTlvIndex (d : Word) : (writeCtrl d s).badTlvIndex = s.badTlvIndex := rfl
@[simp] theorem writeCtrl_badTlvType (d : Word) : (writeCtrl d s).badTlvType = s.badTlvType := rfl
@[simp] theorem writeCtrl_badTlvLen (d : Word) : (writeCtrl d s).badTlvLen = s.badTlvLen := rfl
@[simp] theorem writeCtrl_lastCycle (d : Word) : (writeCtrl d s).lastCycle = s.lastCycle := rfl
@[simp] theorem writeCtrl_hdr (d : Word) : (writeCtrl d s).hdr = s.hdr := rfl
@[simp] theorem writeCtrl_loop (d : Word) : (writeCtrl d s).loop = s.loop := rfl
@[simp] theorem writeCtrl_dataset (d : Word) : (writeCtrl d s).dataset = s.dataset := rfl
@[simp] theorem writeCtrl_source (d : Word) : (writeCtrl d s).source = s.source := rfl
@[simp] theorem writeCtrl_script (d : Word) : (writeCtrl d s).script = s.script := rfl
@[simp] theorem writeCtrl_schedule (d : Word) : (writeCtrl d s).schedule = s.schedule := rfl
@[simp] theorem writeCtrl_hostResp (d : Word) : (writeCtrl d s).hostResp = s.hostResp := rfl

/-! ### writeEvents -/
@[simp] theorem writeEvents_params (d : Word) : (writeEvents d s).params = s.params := rfl
@[simp] theorem writeEvents_phase (d : Word) : (writeEvents d s).phase = s.phase := rfl
@[simp] theorem writeEvents_hb (d : Word) : (writeEvents d s).hb = s.hb := rfl
@[simp] theorem writeEvents_pb (d : Word) : (writeEvents d s).pb = s.pb := rfl
@[simp] theorem writeEvents_obj (d : Word) : (writeEvents d s).obj = s.obj := rfl
@[simp] theorem writeEvents_sig (d : Word) : (writeEvents d s).sig = s.sig := rfl
@[simp] theorem writeEvents_emitN (d : Word) : (writeEvents d s).emitN = s.emitN := rfl
@[simp] theorem writeEvents_emitIdx (d : Word) : (writeEvents d s).emitIdx = s.emitIdx := rfl
@[simp] theorem writeEvents_curCycle (d : Word) : (writeEvents d s).curCycle = s.curCycle := rfl
@[simp] theorem writeEvents_ctrl (d : Word) : (writeEvents d s).ctrl = s.ctrl := rfl
@[simp] theorem writeEvents_events (d : Word) : (writeEvents d s).events = s.events &&& ~~~(d.extractLsb' 0 9) := rfl
@[simp] theorem writeEvents_irqEn (d : Word) : (writeEvents d s).irqEn = s.irqEn := rfl
@[simp] theorem writeEvents_cycleId (d : Word) : (writeEvents d s).cycleId = s.cycleId := rfl
@[simp] theorem writeEvents_resyncLimit (d : Word) : (writeEvents d s).resyncLimit = s.resyncLimit := rfl
@[simp] theorem writeEvents_resyncCnt (d : Word) : (writeEvents d s).resyncCnt = s.resyncCnt := rfl
@[simp] theorem writeEvents_frameCnt (d : Word) : (writeEvents d s).frameCnt = s.frameCnt := rfl
@[simp] theorem writeEvents_discardCnt (d : Word) : (writeEvents d s).discardCnt = s.discardCnt := rfl
@[simp] theorem writeEvents_rowCnt (d : Word) : (writeEvents d s).rowCnt = s.rowCnt := rfl
@[simp] theorem writeEvents_lastOutcome (d : Word) : (writeEvents d s).lastOutcome = s.lastOutcome := rfl
@[simp] theorem writeEvents_lastObjLen (d : Word) : (writeEvents d s).lastObjLen = s.lastObjLen := rfl
@[simp] theorem writeEvents_lastSigLen (d : Word) : (writeEvents d s).lastSigLen = s.lastSigLen := rfl
@[simp] theorem writeEvents_lastRows (d : Word) : (writeEvents d s).lastRows = s.lastRows := rfl
@[simp] theorem writeEvents_badTlvIndex (d : Word) : (writeEvents d s).badTlvIndex = s.badTlvIndex := rfl
@[simp] theorem writeEvents_badTlvType (d : Word) : (writeEvents d s).badTlvType = s.badTlvType := rfl
@[simp] theorem writeEvents_badTlvLen (d : Word) : (writeEvents d s).badTlvLen = s.badTlvLen := rfl
@[simp] theorem writeEvents_lastCycle (d : Word) : (writeEvents d s).lastCycle = s.lastCycle := rfl
@[simp] theorem writeEvents_hdr (d : Word) : (writeEvents d s).hdr = s.hdr := rfl
@[simp] theorem writeEvents_loop (d : Word) : (writeEvents d s).loop = s.loop := rfl
@[simp] theorem writeEvents_dataset (d : Word) : (writeEvents d s).dataset = s.dataset := rfl
@[simp] theorem writeEvents_source (d : Word) : (writeEvents d s).source = s.source := rfl
@[simp] theorem writeEvents_script (d : Word) : (writeEvents d s).script = s.script := rfl
@[simp] theorem writeEvents_schedule (d : Word) : (writeEvents d s).schedule = s.schedule := rfl
@[simp] theorem writeEvents_hostResp (d : Word) : (writeEvents d s).hostResp = s.hostResp := rfl

/-! ### writeIrqEn -/
@[simp] theorem writeIrqEn_params (d : Word) : (writeIrqEn d s).params = s.params := rfl
@[simp] theorem writeIrqEn_phase (d : Word) : (writeIrqEn d s).phase = s.phase := rfl
@[simp] theorem writeIrqEn_hb (d : Word) : (writeIrqEn d s).hb = s.hb := rfl
@[simp] theorem writeIrqEn_pb (d : Word) : (writeIrqEn d s).pb = s.pb := rfl
@[simp] theorem writeIrqEn_obj (d : Word) : (writeIrqEn d s).obj = s.obj := rfl
@[simp] theorem writeIrqEn_sig (d : Word) : (writeIrqEn d s).sig = s.sig := rfl
@[simp] theorem writeIrqEn_emitN (d : Word) : (writeIrqEn d s).emitN = s.emitN := rfl
@[simp] theorem writeIrqEn_emitIdx (d : Word) : (writeIrqEn d s).emitIdx = s.emitIdx := rfl
@[simp] theorem writeIrqEn_curCycle (d : Word) : (writeIrqEn d s).curCycle = s.curCycle := rfl
@[simp] theorem writeIrqEn_ctrl (d : Word) : (writeIrqEn d s).ctrl = s.ctrl := rfl
@[simp] theorem writeIrqEn_events (d : Word) : (writeIrqEn d s).events = s.events := rfl
@[simp] theorem writeIrqEn_irqEn (d : Word) : (writeIrqEn d s).irqEn = d.extractLsb' 0 9 := rfl
@[simp] theorem writeIrqEn_cycleId (d : Word) : (writeIrqEn d s).cycleId = s.cycleId := rfl
@[simp] theorem writeIrqEn_resyncLimit (d : Word) : (writeIrqEn d s).resyncLimit = s.resyncLimit := rfl
@[simp] theorem writeIrqEn_resyncCnt (d : Word) : (writeIrqEn d s).resyncCnt = s.resyncCnt := rfl
@[simp] theorem writeIrqEn_frameCnt (d : Word) : (writeIrqEn d s).frameCnt = s.frameCnt := rfl
@[simp] theorem writeIrqEn_discardCnt (d : Word) : (writeIrqEn d s).discardCnt = s.discardCnt := rfl
@[simp] theorem writeIrqEn_rowCnt (d : Word) : (writeIrqEn d s).rowCnt = s.rowCnt := rfl
@[simp] theorem writeIrqEn_lastOutcome (d : Word) : (writeIrqEn d s).lastOutcome = s.lastOutcome := rfl
@[simp] theorem writeIrqEn_lastObjLen (d : Word) : (writeIrqEn d s).lastObjLen = s.lastObjLen := rfl
@[simp] theorem writeIrqEn_lastSigLen (d : Word) : (writeIrqEn d s).lastSigLen = s.lastSigLen := rfl
@[simp] theorem writeIrqEn_lastRows (d : Word) : (writeIrqEn d s).lastRows = s.lastRows := rfl
@[simp] theorem writeIrqEn_badTlvIndex (d : Word) : (writeIrqEn d s).badTlvIndex = s.badTlvIndex := rfl
@[simp] theorem writeIrqEn_badTlvType (d : Word) : (writeIrqEn d s).badTlvType = s.badTlvType := rfl
@[simp] theorem writeIrqEn_badTlvLen (d : Word) : (writeIrqEn d s).badTlvLen = s.badTlvLen := rfl
@[simp] theorem writeIrqEn_lastCycle (d : Word) : (writeIrqEn d s).lastCycle = s.lastCycle := rfl
@[simp] theorem writeIrqEn_hdr (d : Word) : (writeIrqEn d s).hdr = s.hdr := rfl
@[simp] theorem writeIrqEn_loop (d : Word) : (writeIrqEn d s).loop = s.loop := rfl
@[simp] theorem writeIrqEn_dataset (d : Word) : (writeIrqEn d s).dataset = s.dataset := rfl
@[simp] theorem writeIrqEn_source (d : Word) : (writeIrqEn d s).source = s.source := rfl
@[simp] theorem writeIrqEn_script (d : Word) : (writeIrqEn d s).script = s.script := rfl
@[simp] theorem writeIrqEn_schedule (d : Word) : (writeIrqEn d s).schedule = s.schedule := rfl
@[simp] theorem writeIrqEn_hostResp (d : Word) : (writeIrqEn d s).hostResp = s.hostResp := rfl

/-! ### writeCycleId -/
@[simp] theorem writeCycleId_params (d : Word) : (writeCycleId d s).params = s.params := rfl
@[simp] theorem writeCycleId_phase (d : Word) : (writeCycleId d s).phase = s.phase := rfl
@[simp] theorem writeCycleId_hb (d : Word) : (writeCycleId d s).hb = s.hb := rfl
@[simp] theorem writeCycleId_pb (d : Word) : (writeCycleId d s).pb = s.pb := rfl
@[simp] theorem writeCycleId_obj (d : Word) : (writeCycleId d s).obj = s.obj := rfl
@[simp] theorem writeCycleId_sig (d : Word) : (writeCycleId d s).sig = s.sig := rfl
@[simp] theorem writeCycleId_emitN (d : Word) : (writeCycleId d s).emitN = s.emitN := rfl
@[simp] theorem writeCycleId_emitIdx (d : Word) : (writeCycleId d s).emitIdx = s.emitIdx := rfl
@[simp] theorem writeCycleId_curCycle (d : Word) : (writeCycleId d s).curCycle = s.curCycle := rfl
@[simp] theorem writeCycleId_ctrl (d : Word) : (writeCycleId d s).ctrl = s.ctrl := rfl
@[simp] theorem writeCycleId_events (d : Word) : (writeCycleId d s).events = s.events := rfl
@[simp] theorem writeCycleId_irqEn (d : Word) : (writeCycleId d s).irqEn = s.irqEn := rfl
@[simp] theorem writeCycleId_cycleId (d : Word) : (writeCycleId d s).cycleId = d := rfl
@[simp] theorem writeCycleId_resyncLimit (d : Word) : (writeCycleId d s).resyncLimit = s.resyncLimit := rfl
@[simp] theorem writeCycleId_resyncCnt (d : Word) : (writeCycleId d s).resyncCnt = s.resyncCnt := rfl
@[simp] theorem writeCycleId_frameCnt (d : Word) : (writeCycleId d s).frameCnt = s.frameCnt := rfl
@[simp] theorem writeCycleId_discardCnt (d : Word) : (writeCycleId d s).discardCnt = s.discardCnt := rfl
@[simp] theorem writeCycleId_rowCnt (d : Word) : (writeCycleId d s).rowCnt = s.rowCnt := rfl
@[simp] theorem writeCycleId_lastOutcome (d : Word) : (writeCycleId d s).lastOutcome = s.lastOutcome := rfl
@[simp] theorem writeCycleId_lastObjLen (d : Word) : (writeCycleId d s).lastObjLen = s.lastObjLen := rfl
@[simp] theorem writeCycleId_lastSigLen (d : Word) : (writeCycleId d s).lastSigLen = s.lastSigLen := rfl
@[simp] theorem writeCycleId_lastRows (d : Word) : (writeCycleId d s).lastRows = s.lastRows := rfl
@[simp] theorem writeCycleId_badTlvIndex (d : Word) : (writeCycleId d s).badTlvIndex = s.badTlvIndex := rfl
@[simp] theorem writeCycleId_badTlvType (d : Word) : (writeCycleId d s).badTlvType = s.badTlvType := rfl
@[simp] theorem writeCycleId_badTlvLen (d : Word) : (writeCycleId d s).badTlvLen = s.badTlvLen := rfl
@[simp] theorem writeCycleId_lastCycle (d : Word) : (writeCycleId d s).lastCycle = s.lastCycle := rfl
@[simp] theorem writeCycleId_hdr (d : Word) : (writeCycleId d s).hdr = s.hdr := rfl
@[simp] theorem writeCycleId_loop (d : Word) : (writeCycleId d s).loop = s.loop := rfl
@[simp] theorem writeCycleId_dataset (d : Word) : (writeCycleId d s).dataset = s.dataset := rfl
@[simp] theorem writeCycleId_source (d : Word) : (writeCycleId d s).source = s.source := rfl
@[simp] theorem writeCycleId_script (d : Word) : (writeCycleId d s).script = s.script := rfl
@[simp] theorem writeCycleId_schedule (d : Word) : (writeCycleId d s).schedule = s.schedule := rfl
@[simp] theorem writeCycleId_hostResp (d : Word) : (writeCycleId d s).hostResp = s.hostResp := rfl

/-! ### writeResyncLimit -/
@[simp] theorem writeResyncLimit_params (d : Word) : (writeResyncLimit d s).params = s.params := rfl
@[simp] theorem writeResyncLimit_phase (d : Word) : (writeResyncLimit d s).phase = s.phase := rfl
@[simp] theorem writeResyncLimit_hb (d : Word) : (writeResyncLimit d s).hb = s.hb := rfl
@[simp] theorem writeResyncLimit_pb (d : Word) : (writeResyncLimit d s).pb = s.pb := rfl
@[simp] theorem writeResyncLimit_obj (d : Word) : (writeResyncLimit d s).obj = s.obj := rfl
@[simp] theorem writeResyncLimit_sig (d : Word) : (writeResyncLimit d s).sig = s.sig := rfl
@[simp] theorem writeResyncLimit_emitN (d : Word) : (writeResyncLimit d s).emitN = s.emitN := rfl
@[simp] theorem writeResyncLimit_emitIdx (d : Word) : (writeResyncLimit d s).emitIdx = s.emitIdx := rfl
@[simp] theorem writeResyncLimit_curCycle (d : Word) : (writeResyncLimit d s).curCycle = s.curCycle := rfl
@[simp] theorem writeResyncLimit_ctrl (d : Word) : (writeResyncLimit d s).ctrl = s.ctrl := rfl
@[simp] theorem writeResyncLimit_events (d : Word) : (writeResyncLimit d s).events = s.events := rfl
@[simp] theorem writeResyncLimit_irqEn (d : Word) : (writeResyncLimit d s).irqEn = s.irqEn := rfl
@[simp] theorem writeResyncLimit_cycleId (d : Word) : (writeResyncLimit d s).cycleId = s.cycleId := rfl
@[simp] theorem writeResyncLimit_resyncLimit (d : Word) : (writeResyncLimit d s).resyncLimit = d := rfl
@[simp] theorem writeResyncLimit_resyncCnt (d : Word) : (writeResyncLimit d s).resyncCnt = s.resyncCnt := rfl
@[simp] theorem writeResyncLimit_frameCnt (d : Word) : (writeResyncLimit d s).frameCnt = s.frameCnt := rfl
@[simp] theorem writeResyncLimit_discardCnt (d : Word) : (writeResyncLimit d s).discardCnt = s.discardCnt := rfl
@[simp] theorem writeResyncLimit_rowCnt (d : Word) : (writeResyncLimit d s).rowCnt = s.rowCnt := rfl
@[simp] theorem writeResyncLimit_lastOutcome (d : Word) : (writeResyncLimit d s).lastOutcome = s.lastOutcome := rfl
@[simp] theorem writeResyncLimit_lastObjLen (d : Word) : (writeResyncLimit d s).lastObjLen = s.lastObjLen := rfl
@[simp] theorem writeResyncLimit_lastSigLen (d : Word) : (writeResyncLimit d s).lastSigLen = s.lastSigLen := rfl
@[simp] theorem writeResyncLimit_lastRows (d : Word) : (writeResyncLimit d s).lastRows = s.lastRows := rfl
@[simp] theorem writeResyncLimit_badTlvIndex (d : Word) : (writeResyncLimit d s).badTlvIndex = s.badTlvIndex := rfl
@[simp] theorem writeResyncLimit_badTlvType (d : Word) : (writeResyncLimit d s).badTlvType = s.badTlvType := rfl
@[simp] theorem writeResyncLimit_badTlvLen (d : Word) : (writeResyncLimit d s).badTlvLen = s.badTlvLen := rfl
@[simp] theorem writeResyncLimit_lastCycle (d : Word) : (writeResyncLimit d s).lastCycle = s.lastCycle := rfl
@[simp] theorem writeResyncLimit_hdr (d : Word) : (writeResyncLimit d s).hdr = s.hdr := rfl
@[simp] theorem writeResyncLimit_loop (d : Word) : (writeResyncLimit d s).loop = s.loop := rfl
@[simp] theorem writeResyncLimit_dataset (d : Word) : (writeResyncLimit d s).dataset = s.dataset := rfl
@[simp] theorem writeResyncLimit_source (d : Word) : (writeResyncLimit d s).source = s.source := rfl
@[simp] theorem writeResyncLimit_script (d : Word) : (writeResyncLimit d s).script = s.script := rfl
@[simp] theorem writeResyncLimit_schedule (d : Word) : (writeResyncLimit d s).schedule = s.schedule := rfl
@[simp] theorem writeResyncLimit_hostResp (d : Word) : (writeResyncLimit d s).hostResp = s.hostResp := rfl

/-! ### restartSearch -/
@[simp] theorem restartSearch_params : (restartSearch s).params = s.params := rfl
@[simp] theorem restartSearch_phase : (restartSearch s).phase = if s.phase = .halt then .hunt else s.phase := rfl
@[simp] theorem restartSearch_hb : (restartSearch s).hb = s.hb := rfl
@[simp] theorem restartSearch_pb : (restartSearch s).pb = s.pb := rfl
@[simp] theorem restartSearch_obj : (restartSearch s).obj = s.obj := rfl
@[simp] theorem restartSearch_sig : (restartSearch s).sig = s.sig := rfl
@[simp] theorem restartSearch_emitN : (restartSearch s).emitN = s.emitN := rfl
@[simp] theorem restartSearch_emitIdx : (restartSearch s).emitIdx = s.emitIdx := rfl
@[simp] theorem restartSearch_curCycle : (restartSearch s).curCycle = s.curCycle := rfl
@[simp] theorem restartSearch_ctrl : (restartSearch s).ctrl = s.ctrl := rfl
@[simp] theorem restartSearch_events : (restartSearch s).events = s.events := rfl
@[simp] theorem restartSearch_irqEn : (restartSearch s).irqEn = s.irqEn := rfl
@[simp] theorem restartSearch_cycleId : (restartSearch s).cycleId = s.cycleId := rfl
@[simp] theorem restartSearch_resyncLimit : (restartSearch s).resyncLimit = s.resyncLimit := rfl
@[simp] theorem restartSearch_resyncCnt : (restartSearch s).resyncCnt = 0#32 := rfl
@[simp] theorem restartSearch_frameCnt : (restartSearch s).frameCnt = s.frameCnt := rfl
@[simp] theorem restartSearch_discardCnt : (restartSearch s).discardCnt = s.discardCnt := rfl
@[simp] theorem restartSearch_rowCnt : (restartSearch s).rowCnt = s.rowCnt := rfl
@[simp] theorem restartSearch_lastOutcome : (restartSearch s).lastOutcome = s.lastOutcome := rfl
@[simp] theorem restartSearch_lastObjLen : (restartSearch s).lastObjLen = s.lastObjLen := rfl
@[simp] theorem restartSearch_lastSigLen : (restartSearch s).lastSigLen = s.lastSigLen := rfl
@[simp] theorem restartSearch_lastRows : (restartSearch s).lastRows = s.lastRows := rfl
@[simp] theorem restartSearch_badTlvIndex : (restartSearch s).badTlvIndex = s.badTlvIndex := rfl
@[simp] theorem restartSearch_badTlvType : (restartSearch s).badTlvType = s.badTlvType := rfl
@[simp] theorem restartSearch_badTlvLen : (restartSearch s).badTlvLen = s.badTlvLen := rfl
@[simp] theorem restartSearch_lastCycle : (restartSearch s).lastCycle = s.lastCycle := rfl
@[simp] theorem restartSearch_hdr : (restartSearch s).hdr = s.hdr := rfl
@[simp] theorem restartSearch_loop : (restartSearch s).loop = s.loop := rfl
@[simp] theorem restartSearch_dataset : (restartSearch s).dataset = s.dataset := rfl
@[simp] theorem restartSearch_source : (restartSearch s).source = s.source := rfl
@[simp] theorem restartSearch_script : (restartSearch s).script = s.script := rfl
@[simp] theorem restartSearch_schedule : (restartSearch s).schedule = s.schedule := rfl
@[simp] theorem restartSearch_hostResp : (restartSearch s).hostResp = s.hostResp := rfl

/-! ### clearCounters -/
@[simp] theorem clearCounters_params : (clearCounters s).params = s.params := rfl
@[simp] theorem clearCounters_phase : (clearCounters s).phase = s.phase := rfl
@[simp] theorem clearCounters_hb : (clearCounters s).hb = s.hb := rfl
@[simp] theorem clearCounters_pb : (clearCounters s).pb = s.pb := rfl
@[simp] theorem clearCounters_obj : (clearCounters s).obj = s.obj := rfl
@[simp] theorem clearCounters_sig : (clearCounters s).sig = s.sig := rfl
@[simp] theorem clearCounters_emitN : (clearCounters s).emitN = s.emitN := rfl
@[simp] theorem clearCounters_emitIdx : (clearCounters s).emitIdx = s.emitIdx := rfl
@[simp] theorem clearCounters_curCycle : (clearCounters s).curCycle = s.curCycle := rfl
@[simp] theorem clearCounters_ctrl : (clearCounters s).ctrl = s.ctrl := rfl
@[simp] theorem clearCounters_events : (clearCounters s).events = s.events := rfl
@[simp] theorem clearCounters_irqEn : (clearCounters s).irqEn = s.irqEn := rfl
@[simp] theorem clearCounters_cycleId : (clearCounters s).cycleId = s.cycleId := rfl
@[simp] theorem clearCounters_resyncLimit : (clearCounters s).resyncLimit = s.resyncLimit := rfl
@[simp] theorem clearCounters_resyncCnt : (clearCounters s).resyncCnt = s.resyncCnt := rfl
@[simp] theorem clearCounters_frameCnt : (clearCounters s).frameCnt = 0#32 := rfl
@[simp] theorem clearCounters_discardCnt : (clearCounters s).discardCnt = 0#32 := rfl
@[simp] theorem clearCounters_rowCnt : (clearCounters s).rowCnt = 0#32 := rfl
@[simp] theorem clearCounters_lastOutcome : (clearCounters s).lastOutcome = s.lastOutcome := rfl
@[simp] theorem clearCounters_lastObjLen : (clearCounters s).lastObjLen = s.lastObjLen := rfl
@[simp] theorem clearCounters_lastSigLen : (clearCounters s).lastSigLen = s.lastSigLen := rfl
@[simp] theorem clearCounters_lastRows : (clearCounters s).lastRows = s.lastRows := rfl
@[simp] theorem clearCounters_badTlvIndex : (clearCounters s).badTlvIndex = s.badTlvIndex := rfl
@[simp] theorem clearCounters_badTlvType : (clearCounters s).badTlvType = s.badTlvType := rfl
@[simp] theorem clearCounters_badTlvLen : (clearCounters s).badTlvLen = s.badTlvLen := rfl
@[simp] theorem clearCounters_lastCycle : (clearCounters s).lastCycle = s.lastCycle := rfl
@[simp] theorem clearCounters_hdr : (clearCounters s).hdr = s.hdr := rfl
@[simp] theorem clearCounters_loop : (clearCounters s).loop = s.loop := rfl
@[simp] theorem clearCounters_dataset : (clearCounters s).dataset = s.dataset := rfl
@[simp] theorem clearCounters_source : (clearCounters s).source = s.source := rfl
@[simp] theorem clearCounters_script : (clearCounters s).script = s.script := rfl
@[simp] theorem clearCounters_schedule : (clearCounters s).schedule = s.schedule := rfl
@[simp] theorem clearCounters_hostResp : (clearCounters s).hostResp = s.hostResp := rfl

/-! ### resetConfiguration -/
@[simp] theorem resetConfiguration_params : (resetConfiguration s).params = s.params := rfl
@[simp] theorem resetConfiguration_phase : (resetConfiguration s).phase = s.phase := rfl
@[simp] theorem resetConfiguration_hb : (resetConfiguration s).hb = s.hb := rfl
@[simp] theorem resetConfiguration_pb : (resetConfiguration s).pb = s.pb := rfl
@[simp] theorem resetConfiguration_obj : (resetConfiguration s).obj = s.obj := rfl
@[simp] theorem resetConfiguration_sig : (resetConfiguration s).sig = s.sig := rfl
@[simp] theorem resetConfiguration_emitN : (resetConfiguration s).emitN = s.emitN := rfl
@[simp] theorem resetConfiguration_emitIdx : (resetConfiguration s).emitIdx = s.emitIdx := rfl
@[simp] theorem resetConfiguration_curCycle : (resetConfiguration s).curCycle = s.curCycle := rfl
@[simp] theorem resetConfiguration_ctrl : (resetConfiguration s).ctrl = 0#2 := rfl
@[simp] theorem resetConfiguration_events : (resetConfiguration s).events = s.events := rfl
@[simp] theorem resetConfiguration_irqEn : (resetConfiguration s).irqEn = 0#9 := rfl
@[simp] theorem resetConfiguration_cycleId : (resetConfiguration s).cycleId = 0#32 := rfl
@[simp] theorem resetConfiguration_resyncLimit : (resetConfiguration s).resyncLimit = 0#32 := rfl
@[simp] theorem resetConfiguration_resyncCnt : (resetConfiguration s).resyncCnt = s.resyncCnt := rfl
@[simp] theorem resetConfiguration_frameCnt : (resetConfiguration s).frameCnt = s.frameCnt := rfl
@[simp] theorem resetConfiguration_discardCnt : (resetConfiguration s).discardCnt = s.discardCnt := rfl
@[simp] theorem resetConfiguration_rowCnt : (resetConfiguration s).rowCnt = s.rowCnt := rfl
@[simp] theorem resetConfiguration_lastOutcome : (resetConfiguration s).lastOutcome = s.lastOutcome := rfl
@[simp] theorem resetConfiguration_lastObjLen : (resetConfiguration s).lastObjLen = s.lastObjLen := rfl
@[simp] theorem resetConfiguration_lastSigLen : (resetConfiguration s).lastSigLen = s.lastSigLen := rfl
@[simp] theorem resetConfiguration_lastRows : (resetConfiguration s).lastRows = s.lastRows := rfl
@[simp] theorem resetConfiguration_badTlvIndex : (resetConfiguration s).badTlvIndex = s.badTlvIndex := rfl
@[simp] theorem resetConfiguration_badTlvType : (resetConfiguration s).badTlvType = s.badTlvType := rfl
@[simp] theorem resetConfiguration_badTlvLen : (resetConfiguration s).badTlvLen = s.badTlvLen := rfl
@[simp] theorem resetConfiguration_lastCycle : (resetConfiguration s).lastCycle = s.lastCycle := rfl
@[simp] theorem resetConfiguration_hdr : (resetConfiguration s).hdr = s.hdr := rfl
@[simp] theorem resetConfiguration_loop : (resetConfiguration s).loop = s.loop := rfl
@[simp] theorem resetConfiguration_dataset : (resetConfiguration s).dataset = s.dataset := rfl
@[simp] theorem resetConfiguration_source : (resetConfiguration s).source = s.source := rfl
@[simp] theorem resetConfiguration_script : (resetConfiguration s).script = s.script := rfl
@[simp] theorem resetConfiguration_schedule : (resetConfiguration s).schedule = s.schedule := rfl
@[simp] theorem resetConfiguration_hostResp : (resetConfiguration s).hostResp = s.hostResp := rfl

/-! ### resetDatapath -/
@[simp] theorem resetDatapath_params : (resetDatapath s).params = s.params := rfl
@[simp] theorem resetDatapath_phase : (resetDatapath s).phase = .hunt := rfl
@[simp] theorem resetDatapath_hb : (resetDatapath s).hb = [] := rfl
@[simp] theorem resetDatapath_pb : (resetDatapath s).pb = [] := rfl
@[simp] theorem resetDatapath_obj : (resetDatapath s).obj = [] := rfl
@[simp] theorem resetDatapath_sig : (resetDatapath s).sig = [] := rfl
@[simp] theorem resetDatapath_emitN : (resetDatapath s).emitN = 0 := rfl
@[simp] theorem resetDatapath_emitIdx : (resetDatapath s).emitIdx = 0 := rfl
@[simp] theorem resetDatapath_curCycle : (resetDatapath s).curCycle = 0#32 := rfl
@[simp] theorem resetDatapath_ctrl : (resetDatapath s).ctrl = s.ctrl := rfl
@[simp] theorem resetDatapath_events : (resetDatapath s).events = 0#9 := rfl
@[simp] theorem resetDatapath_irqEn : (resetDatapath s).irqEn = s.irqEn := rfl
@[simp] theorem resetDatapath_cycleId : (resetDatapath s).cycleId = s.cycleId := rfl
@[simp] theorem resetDatapath_resyncLimit : (resetDatapath s).resyncLimit = s.resyncLimit := rfl
@[simp] theorem resetDatapath_resyncCnt : (resetDatapath s).resyncCnt = 0#32 := rfl
@[simp] theorem resetDatapath_frameCnt : (resetDatapath s).frameCnt = 0#32 := rfl
@[simp] theorem resetDatapath_discardCnt : (resetDatapath s).discardCnt = 0#32 := rfl
@[simp] theorem resetDatapath_rowCnt : (resetDatapath s).rowCnt = 0#32 := rfl
@[simp] theorem resetDatapath_lastOutcome : (resetDatapath s).lastOutcome = 0#7 := rfl
@[simp] theorem resetDatapath_lastObjLen : (resetDatapath s).lastObjLen = 0#32 := rfl
@[simp] theorem resetDatapath_lastSigLen : (resetDatapath s).lastSigLen = 0#32 := rfl
@[simp] theorem resetDatapath_lastRows : (resetDatapath s).lastRows = 0#32 := rfl
@[simp] theorem resetDatapath_badTlvIndex : (resetDatapath s).badTlvIndex = 0#32 := rfl
@[simp] theorem resetDatapath_badTlvType : (resetDatapath s).badTlvType = 0#32 := rfl
@[simp] theorem resetDatapath_badTlvLen : (resetDatapath s).badTlvLen = 0#32 := rfl
@[simp] theorem resetDatapath_lastCycle : (resetDatapath s).lastCycle = 0#32 := rfl
@[simp] theorem resetDatapath_hdr : (resetDatapath s).hdr = Header.zero := rfl
@[simp] theorem resetDatapath_loop : (resetDatapath s).loop = LoopVars.start := rfl
@[simp] theorem resetDatapath_dataset : (resetDatapath s).dataset = s.dataset := rfl
@[simp] theorem resetDatapath_source : (resetDatapath s).source = s.source := rfl
@[simp] theorem resetDatapath_script : (resetDatapath s).script = s.script := rfl
@[simp] theorem resetDatapath_schedule : (resetDatapath s).schedule = s.schedule := rfl
@[simp] theorem resetDatapath_hostResp : (resetDatapath s).hostResp = s.hostResp := rfl

/-! ### raiseIf -/
@[simp] theorem raiseIf_params (c : Bool) (e : Event) : (raiseIf c e s).params = s.params := by cases c <;> rfl
@[simp] theorem raiseIf_phase (c : Bool) (e : Event) : (raiseIf c e s).phase = s.phase := by cases c <;> rfl
@[simp] theorem raiseIf_hb (c : Bool) (e : Event) : (raiseIf c e s).hb = s.hb := by cases c <;> rfl
@[simp] theorem raiseIf_pb (c : Bool) (e : Event) : (raiseIf c e s).pb = s.pb := by cases c <;> rfl
@[simp] theorem raiseIf_obj (c : Bool) (e : Event) : (raiseIf c e s).obj = s.obj := by cases c <;> rfl
@[simp] theorem raiseIf_sig (c : Bool) (e : Event) : (raiseIf c e s).sig = s.sig := by cases c <;> rfl
@[simp] theorem raiseIf_emitN (c : Bool) (e : Event) : (raiseIf c e s).emitN = s.emitN := by cases c <;> rfl
@[simp] theorem raiseIf_emitIdx (c : Bool) (e : Event) : (raiseIf c e s).emitIdx = s.emitIdx := by cases c <;> rfl
@[simp] theorem raiseIf_curCycle (c : Bool) (e : Event) : (raiseIf c e s).curCycle = s.curCycle := by cases c <;> rfl
@[simp] theorem raiseIf_ctrl (c : Bool) (e : Event) : (raiseIf c e s).ctrl = s.ctrl := by cases c <;> rfl
@[simp] theorem raiseIf_events (c : Bool) (e : Event) :
    (raiseIf c e s).events = if c then s.events ||| e.mask else s.events := by cases c <;> rfl
@[simp] theorem raiseIf_irqEn (c : Bool) (e : Event) : (raiseIf c e s).irqEn = s.irqEn := by cases c <;> rfl
@[simp] theorem raiseIf_cycleId (c : Bool) (e : Event) : (raiseIf c e s).cycleId = s.cycleId := by cases c <;> rfl
@[simp] theorem raiseIf_resyncLimit (c : Bool) (e : Event) : (raiseIf c e s).resyncLimit = s.resyncLimit := by cases c <;> rfl
@[simp] theorem raiseIf_resyncCnt (c : Bool) (e : Event) : (raiseIf c e s).resyncCnt = s.resyncCnt := by cases c <;> rfl
@[simp] theorem raiseIf_frameCnt (c : Bool) (e : Event) : (raiseIf c e s).frameCnt = s.frameCnt := by cases c <;> rfl
@[simp] theorem raiseIf_discardCnt (c : Bool) (e : Event) : (raiseIf c e s).discardCnt = s.discardCnt := by cases c <;> rfl
@[simp] theorem raiseIf_rowCnt (c : Bool) (e : Event) : (raiseIf c e s).rowCnt = s.rowCnt := by cases c <;> rfl
@[simp] theorem raiseIf_lastOutcome (c : Bool) (e : Event) : (raiseIf c e s).lastOutcome = s.lastOutcome := by cases c <;> rfl
@[simp] theorem raiseIf_lastObjLen (c : Bool) (e : Event) : (raiseIf c e s).lastObjLen = s.lastObjLen := by cases c <;> rfl
@[simp] theorem raiseIf_lastSigLen (c : Bool) (e : Event) : (raiseIf c e s).lastSigLen = s.lastSigLen := by cases c <;> rfl
@[simp] theorem raiseIf_lastRows (c : Bool) (e : Event) : (raiseIf c e s).lastRows = s.lastRows := by cases c <;> rfl
@[simp] theorem raiseIf_badTlvIndex (c : Bool) (e : Event) : (raiseIf c e s).badTlvIndex = s.badTlvIndex := by cases c <;> rfl
@[simp] theorem raiseIf_badTlvType (c : Bool) (e : Event) : (raiseIf c e s).badTlvType = s.badTlvType := by cases c <;> rfl
@[simp] theorem raiseIf_badTlvLen (c : Bool) (e : Event) : (raiseIf c e s).badTlvLen = s.badTlvLen := by cases c <;> rfl
@[simp] theorem raiseIf_lastCycle (c : Bool) (e : Event) : (raiseIf c e s).lastCycle = s.lastCycle := by cases c <;> rfl
@[simp] theorem raiseIf_hdr (c : Bool) (e : Event) : (raiseIf c e s).hdr = s.hdr := by cases c <;> rfl
@[simp] theorem raiseIf_loop (c : Bool) (e : Event) : (raiseIf c e s).loop = s.loop := by cases c <;> rfl
@[simp] theorem raiseIf_dataset (c : Bool) (e : Event) : (raiseIf c e s).dataset = s.dataset := by cases c <;> rfl
@[simp] theorem raiseIf_source (c : Bool) (e : Event) : (raiseIf c e s).source = s.source := by cases c <;> rfl
@[simp] theorem raiseIf_script (c : Bool) (e : Event) : (raiseIf c e s).script = s.script := by cases c <;> rfl
@[simp] theorem raiseIf_schedule (c : Bool) (e : Event) : (raiseIf c e s).schedule = s.schedule := by cases c <;> rfl
@[simp] theorem raiseIf_hostResp (c : Bool) (e : Event) : (raiseIf c e s).hostResp = s.hostResp := by cases c <;> rfl

/-! ### The flags read from the state only what they name -/

theorem enabled_congr {s t : State} (h : t.ctrl = s.ctrl) : enabled t = enabled s := by simp [enabled, h]
theorem autoInc_congr {s t : State} (h : t.ctrl = s.ctrl) : autoInc t = autoInc s := by simp [autoInc, h]
theorem inReady_congr {s t : State} (h : t.ctrl = s.ctrl) (hp : t.phase = s.phase) : inReady t = inReady s := by
  simp [inReady, enabled, h, hp]

/-! ### commitRecord -/
@[simp] theorem commitRecord_params (os : List ObjRec) (gs : List SigRec) (sh ov : Bool) :
    (commitRecord os gs sh ov s).params = s.params := by simp [commitRecord]
@[simp] theorem commitRecord_phase (os : List ObjRec) (gs : List SigRec) (sh ov : Bool) :
    (commitRecord os gs sh ov s).phase = s.phase := by simp [commitRecord]
@[simp] theorem commitRecord_hb (os : List ObjRec) (gs : List SigRec) (sh ov : Bool) :
    (commitRecord os gs sh ov s).hb = s.hb := by simp [commitRecord]
@[simp] theorem commitRecord_pb (os : List ObjRec) (gs : List SigRec) (sh ov : Bool) :
    (commitRecord os gs sh ov s).pb = [] := by simp [commitRecord]
@[simp] theorem commitRecord_obj (os : List ObjRec) (gs : List SigRec) (sh ov : Bool) :
    (commitRecord os gs sh ov s).obj = s.obj := by simp [commitRecord]
@[simp] theorem commitRecord_sig (os : List ObjRec) (gs : List SigRec) (sh ov : Bool) :
    (commitRecord os gs sh ov s).sig = s.sig := by simp [commitRecord]
@[simp] theorem commitRecord_emitN (os : List ObjRec) (gs : List SigRec) (sh ov : Bool) :
    (commitRecord os gs sh ov s).emitN = s.emitN := by simp [commitRecord]
@[simp] theorem commitRecord_emitIdx (os : List ObjRec) (gs : List SigRec) (sh ov : Bool) :
    (commitRecord os gs sh ov s).emitIdx = s.emitIdx := by simp [commitRecord]
@[simp] theorem commitRecord_curCycle (os : List ObjRec) (gs : List SigRec) (sh ov : Bool) :
    (commitRecord os gs sh ov s).curCycle = s.cycleId := by simp [commitRecord]
@[simp] theorem commitRecord_ctrl (os : List ObjRec) (gs : List SigRec) (sh ov : Bool) :
    (commitRecord os gs sh ov s).ctrl = s.ctrl := by simp [commitRecord]
@[simp] theorem commitRecord_events (os : List ObjRec) (gs : List SigRec) (sh ov : Bool) :
    (commitRecord os gs sh ov s).events = (raiseIf ov .ovf (raiseIf sh .short
      (raiseIf (decide (os.length ≠ gs.length)) .trunc (raise .frame s)))).events := rfl
@[simp] theorem commitRecord_irqEn (os : List ObjRec) (gs : List SigRec) (sh ov : Bool) :
    (commitRecord os gs sh ov s).irqEn = s.irqEn := by simp [commitRecord]
@[simp] theorem commitRecord_cycleId (os : List ObjRec) (gs : List SigRec) (sh ov : Bool) :
    (commitRecord os gs sh ov s).cycleId = if autoInc s then wrap32 (s.cycleId.toNat + 1) else s.cycleId := by simp [commitRecord, autoInc]
@[simp] theorem commitRecord_resyncLimit (os : List ObjRec) (gs : List SigRec) (sh ov : Bool) :
    (commitRecord os gs sh ov s).resyncLimit = s.resyncLimit := by simp [commitRecord]
@[simp] theorem commitRecord_resyncCnt (os : List ObjRec) (gs : List SigRec) (sh ov : Bool) :
    (commitRecord os gs sh ov s).resyncCnt = s.resyncCnt := by simp [commitRecord]
@[simp] theorem commitRecord_frameCnt (os : List ObjRec) (gs : List SigRec) (sh ov : Bool) :
    (commitRecord os gs sh ov s).frameCnt = wrap32 (s.frameCnt.toNat + 1) := by simp [commitRecord]
@[simp] theorem commitRecord_discardCnt (os : List ObjRec) (gs : List SigRec) (sh ov : Bool) :
    (commitRecord os gs sh ov s).discardCnt = s.discardCnt := by simp [commitRecord]
@[simp] theorem commitRecord_rowCnt (os : List ObjRec) (gs : List SigRec) (sh ov : Bool) :
    (commitRecord os gs sh ov s).rowCnt = s.rowCnt := by simp [commitRecord]
@[simp] theorem commitRecord_lastOutcome (os : List ObjRec) (gs : List SigRec) (sh ov : Bool) :
    (commitRecord os gs sh ov s).lastOutcome = commitOutcome (decide (os.length ≠ gs.length)) sh ov := by simp [commitRecord]
@[simp] theorem commitRecord_lastObjLen (os : List ObjRec) (gs : List SigRec) (sh ov : Bool) :
    (commitRecord os gs sh ov s).lastObjLen = wrap32 os.length := by simp [commitRecord]
@[simp] theorem commitRecord_lastSigLen (os : List ObjRec) (gs : List SigRec) (sh ov : Bool) :
    (commitRecord os gs sh ov s).lastSigLen = wrap32 gs.length := by simp [commitRecord]
@[simp] theorem commitRecord_lastRows (os : List ObjRec) (gs : List SigRec) (sh ov : Bool) :
    (commitRecord os gs sh ov s).lastRows = wrap32 (min os.length gs.length) := by simp [commitRecord]
@[simp] theorem commitRecord_badTlvIndex (os : List ObjRec) (gs : List SigRec) (sh ov : Bool) :
    (commitRecord os gs sh ov s).badTlvIndex = s.badTlvIndex := by simp [commitRecord]
@[simp] theorem commitRecord_badTlvType (os : List ObjRec) (gs : List SigRec) (sh ov : Bool) :
    (commitRecord os gs sh ov s).badTlvType = s.badTlvType := by simp [commitRecord]
@[simp] theorem commitRecord_badTlvLen (os : List ObjRec) (gs : List SigRec) (sh ov : Bool) :
    (commitRecord os gs sh ov s).badTlvLen = s.badTlvLen := by simp [commitRecord]
@[simp] theorem commitRecord_lastCycle (os : List ObjRec) (gs : List SigRec) (sh ov : Bool) :
    (commitRecord os gs sh ov s).lastCycle = s.cycleId := by simp [commitRecord]
@[simp] theorem commitRecord_hdr (os : List ObjRec) (gs : List SigRec) (sh ov : Bool) :
    (commitRecord os gs sh ov s).hdr = s.hdr := by simp [commitRecord]
@[simp] theorem commitRecord_loop (os : List ObjRec) (gs : List SigRec) (sh ov : Bool) :
    (commitRecord os gs sh ov s).loop = s.loop := by simp [commitRecord]
@[simp] theorem commitRecord_dataset (os : List ObjRec) (gs : List SigRec) (sh ov : Bool) :
    (commitRecord os gs sh ov s).dataset = s.dataset := by simp [commitRecord]
@[simp] theorem commitRecord_source (os : List ObjRec) (gs : List SigRec) (sh ov : Bool) :
    (commitRecord os gs sh ov s).source = s.source := by simp [commitRecord]
@[simp] theorem commitRecord_script (os : List ObjRec) (gs : List SigRec) (sh ov : Bool) :
    (commitRecord os gs sh ov s).script = s.script := by simp [commitRecord]
@[simp] theorem commitRecord_schedule (os : List ObjRec) (gs : List SigRec) (sh ov : Bool) :
    (commitRecord os gs sh ov s).schedule = s.schedule := by simp [commitRecord]
@[simp] theorem commitRecord_hostResp (os : List ObjRec) (gs : List SigRec) (sh ov : Bool) :
    (commitRecord os gs sh ov s).hostResp = s.hostResp := by simp [commitRecord]

end Sys2Proof.Machine
end

