-- ==== Sys2Proof/Laws/Ops.lean ====
section
/-! SUPPORT. For each shared operation, one lemma that says all it can do; later proofs cite it instead of unfolding. -/

namespace Sys2Proof

/-! ## Byte order -/

theorem byteAt_of_lt {s : List Byte} {o : Nat} (h : o < s.length) : byteAt s o = s[o] := by simp [byteAt, h]

@[simp] theorem byteAt_cons_zero (b : Byte) (s : List Byte) : byteAt (b :: s) 0 = b := by simp [byteAt]

theorem byteAt_append_left {s t : List Byte} {o : Nat} (h : o < s.length) : byteAt (s ++ t) o = byteAt s o := by
  simp [byteAt, List.getElem?_append_left h]

theorem byteAt_append_right (s t : List Byte) (o : Nat) (h : o < t.length) :
    byteAt (s ++ t) (s.length + o) = byteAt t o := by
  simp [byteAt, h]

@[simp] theorem bytes16_length (w : Half) : (bytes16 w).length = 2 := rfl
@[simp] theorem bytes32_length (w : Word) : (bytes32 w).length = 4 := rfl
@[simp] theorem bytes64_length (w : DWord) : (bytes64 w).length = 8 := rfl
@[simp] theorem headerBytes_length (h : Header) : (headerBytes h).length = 40 := rfl
@[simp] theorem objBytes_length (r : ObjRec) : (objBytes r).length = 16 := rfl
@[simp] theorem sigBytes_length (r : SigRec) : (sigBytes r).length = 4 := rfl

theorem le32_of_bytes (a b c d : Byte) (t : List Byte) : le32 (a :: b :: c :: d :: t) 0 = d ++ c ++ b ++ a := rfl

/-- The four bytes of a word read back as the word (R76). -/
theorem le32_bytes32 (w : Word) (t : List Byte) : le32 (bytes32 w ++ t) 0 = w := by
  simp only [bytes32, List.cons_append, List.nil_append, le32_of_bytes]
  refine BitVec.eq_of_getLsbD_eq fun i hi => ?_
  simp only [BitVec.getLsbD_append, BitVec.getLsbD_extractLsb']
  split_ifs with h1 h2 h3
  · simp [h1]
  · simp [h2, show 8 + (i - 8) = i by omega]
  · simp [h3, show 16 + (i - 8 - 8) = i by omega]
  · simp [show i - 8 - 8 - 8 < 8 by omega, show 24 + (i - 8 - 8 - 8) = i by omega]

theorem le32_append_left {s t : List Byte} {o : Nat} (h : o + 4 ≤ s.length) : le32 (s ++ t) o = le32 s o := by
  simp only [le32]
  rw [byteAt_append_left (by omega), byteAt_append_left (by omega), byteAt_append_left (by omega),
    byteAt_append_left (by omega)]

theorem le16_append_left {s t : List Byte} {o : Nat} (h : o + 2 ≤ s.length) : le16 (s ++ t) o = le16 s o := by
  simp only [le16]
  rw [byteAt_append_left (by omega), byteAt_append_left (by omega)]

theorem le32_append_right (s t : List Byte) (o : Nat) (h : o + 4 ≤ t.length) :
    le32 (s ++ t) (s.length + o) = le32 t o := by
  simp only [le32, Nat.add_assoc]
  rw [byteAt_append_right _ _ _ (by omega), byteAt_append_right _ _ _ (by omega),
    byteAt_append_right _ _ _ (by omega), byteAt_append_right _ _ _ (by omega)]

/-! ## The host port's words -/

/-- What the port carries for a host access decodes to. -/
def accessInstr : Access → Instr
  | .read a => decodeRead a
  | .write a d => decodeWrite a d

theorem decode_access (x : Access) : decode (accessFormat x) (accessBytes x) = .ok (accessInstr x) := by
  cases x with
  | read a => rfl
  | write a d =>
    have h : le32 (a :: bytes32 d) 1 = d := by
      have := le32_append_right [a] (bytes32 d) 0 (by simp)
      simpa using this.trans (by simpa using le32_bytes32 d [])
    simp [accessFormat, accessBytes, decode, ofLength, accessInstr, h]

namespace Machine

/-! ## Flags -/

theorem mask_getLsbD (e e' : Event) : e.mask.getLsbD e'.bit = decide (e = e') := by
  cases e <;> cases e' <;> decide

/-- Raising an event sets its bit and no other (R30). -/
theorem pending_raise (e e' : Event) (s : State) : pending (raise e s) e' = (pending s e' || decide (e = e')) := by
  simp [pending, mask_getLsbD]

/-! ## Registers -/

theorem regAt_addr (r : Reg) : regAt r.addr = some r := by cases r <;> decide

/-- No register stands at a refused address (R50, R51). -/
theorem regAt_bad {a : Addr} (h : badAddr a = true) : regAt a = none := by simp [regAt, h]

/-! ## The ports -/

/-- What an agent's turn decodes to, if its port transfers. -/
theorem fetchTurn_cases {s : State} {t : Turn} {w : PortWord} (h : fetchTurn s t = some w) :
    (∃ b bs, t = .source ∧ s.source = b :: bs ∧ enabled s = true ∧ s.phase = .hunt
        ∧ decode w.format w.bytes = .ok (.byteInHunt b)) ∨
    (∃ b bs, t = .source ∧ s.source = b :: bs ∧ enabled s = true ∧ s.phase = .payload
        ∧ decode w.format w.bytes = .ok (.byteInPayload b)) ∨
    (t = .sink ∧ s.phase = .emit ∧ decode w.format w.bytes = .ok .rowOut) ∨
    (∃ x ops, t = .host ∧ s.script = .access x :: ops ∧ decode w.format w.bytes = .ok (accessInstr x)) ∨
    (t = .reset ∧ decode w.format w.bytes = .ok .reset) := by
  cases t with
  | source =>
    simp only [fetchTurn] at h
    split at h
    · cases h
    · rename_i b bs hs
      split at h
      · rename_i hr
        cases h
        simp only [inReady, Bool.and_eq_true, Bool.or_eq_true, decide_eq_true_eq] at hr
        rcases hr with ⟨he, hp | hp⟩
        · exact .inl ⟨b, bs, rfl, hs, he, hp, by simp [hp, decode, ofLength]⟩
        · exact .inr (.inl ⟨b, bs, rfl, hs, he, hp, by simp [hp, decode, ofLength]⟩)
      · cases h
  | sink =>
    simp only [fetchTurn, outValid, decide_eq_true_eq] at h
    split at h
    · rename_i hp
      cases h
      exact .inr (.inr (.inl ⟨rfl, hp, rfl⟩))
    · cases h
  | host =>
    simp only [fetchTurn] at h
    split at h
    · rename_i x ops hs
      cases h
      exact .inr (.inr (.inr (.inl ⟨x, ops, rfl, hs, decode_access x⟩)))
    · cases h
  | reset => cases h; exact .inr (.inr (.inr (.inr ⟨rfl, rfl⟩)))

theorem fetch_turn {s : State} {w : PortWord} (h : fetch s = some w) :
    ∃ t ts, s.schedule = t :: ts ∧ fetchTurn s t = some w := by
  unfold fetch at h
  split at h
  · cases h
  · rename_i t ts hs
    exact ⟨t, ts, hs, h⟩

/-! ## The commit (R99) -/

/-- A commit either has rows and goes to EMIT, or has none and goes to HUNT with nothing staged. -/
theorem applyCommit_cases (os : List ObjRec) (gs : List SigRec) (sh ov : Bool) (s : State) :
    (0 < min os.length gs.length ∧
      applyCommit os gs sh ov s =
        { commitRecord os gs sh ov s with
          obj := os, sig := gs, emitN := min os.length gs.length, emitIdx := 0, phase := .emit }) ∨
    (min os.length gs.length = 0 ∧ applyCommit os gs sh ov s = clearEmission (commitRecord os gs sh ov s)) := by
  by_cases h : 0 < min os.length gs.length
  · exact .inl ⟨h, by simp only [applyCommit, if_pos h]⟩
  · exact .inr ⟨by omega, by simp only [applyCommit, if_neg h]⟩

/-! ## The header (R77 to R84) -/

/-- The length check either discards (LEN_BAD) or accepts the header (R83). -/
theorem checkLength_cases (s : State) :
    (lengthBad s = true ∧ checkLength s = enterDiscard .lenBad outcomeLenBad s) ∨
    (lengthBad s = false ∧ checkLength s = acceptHeader s) := by
  cases h : lengthBad s
  · exact .inr ⟨rfl, by simp [checkLength, h]⟩
  · exact .inl ⟨rfl, by simp [checkLength, h]⟩

/-- A header byte only fills the window, or completes it and is evaluated (R77, R78). -/
theorem takeHeaderByte_cases (b : Byte) (s : State) :
    (s.hb.length ≠ 39 ∧ takeHeaderByte b s = pushHb b s) ∨
    (s.hb.length = 39 ∧ isSync (s.hb ++ [b]) = true ∧
      takeHeaderByte b s = latchHeader (headerAt (s.hb ++ [b])) (pushHb b s)) ∨
    (s.hb.length = 39 ∧ isSync (s.hb ++ [b]) = false ∧ takeHeaderByte b s = shiftWindow (pushHb b s)) := by
  by_cases h : s.hb.length = 39
  · cases hs : isSync (s.hb ++ [b])
    · exact .inr (.inr ⟨h, rfl, by simp [takeHeaderByte, evaluateWindow, h, hs]⟩)
    · exact .inr (.inl ⟨h, rfl, by simp [takeHeaderByte, evaluateWindow, h, hs]⟩)
  · refine .inl ⟨h, ?_⟩
    have h40 : (pushHb b s).hb.length ≠ Config.hdrLen := by simp [Config.hdrLen, h]
    simp only [takeHeaderByte, if_neg h40]

/-- A payload byte only fills the buffer, or completes the packet (R88). -/
theorem takePayloadByte_cases (b : Byte) (s : State) :
    (s.pb.length + 1 ≠ payloadLen s ∧ takePayloadByte b s = pushPb b s) ∨
    (s.pb.length + 1 = payloadLen s ∧ takePayloadByte b s = finishPacket (pushPb b s)) := by
  by_cases h : s.pb.length + 1 = payloadLen s
  · exact .inr ⟨h, by simp [takePayloadByte, payloadLen] at h ⊢; simp [h]⟩
  · exact .inl ⟨h, by simp [takePayloadByte, payloadLen] at h ⊢; simp [h]⟩

/-! ## The TLV loop's parts (R89 to R95) -/

@[simp] theorem appendObj_c (m : Nat) (r : ObjRec) (v : LoopVars) : (appendObj m r v).c = v.c := by
  unfold appendObj; split <;> rfl
@[simp] theorem appendObj_i (m : Nat) (r : ObjRec) (v : LoopVars) : (appendObj m r v).i = v.i := by
  unfold appendObj; split <;> rfl
@[simp] theorem appendObj_sigs (m : Nat) (r : ObjRec) (v : LoopVars) : (appendObj m r v).sigs = v.sigs := by
  unfold appendObj; split <;> rfl
@[simp] theorem appendObj_short (m : Nat) (r : ObjRec) (v : LoopVars) : (appendObj m r v).short = v.short := by
  unfold appendObj; split <;> rfl
@[simp] theorem appendObj_exit (m : Nat) (r : ObjRec) (v : LoopVars) : (appendObj m r v).exit = v.exit := by
  unfold appendObj; split <;> rfl
@[simp] theorem appendSig_c (m : Nat) (r : SigRec) (v : LoopVars) : (appendSig m r v).c = v.c := by
  unfold appendSig; split <;> rfl
@[simp] theorem appendSig_i (m : Nat) (r : SigRec) (v : LoopVars) : (appendSig m r v).i = v.i := by
  unfold appendSig; split <;> rfl
@[simp] theorem appendSig_objs (m : Nat) (r : SigRec) (v : LoopVars) : (appendSig m r v).objs = v.objs := by
  unfold appendSig; split <;> rfl
@[simp] theorem appendSig_short (m : Nat) (r : SigRec) (v : LoopVars) : (appendSig m r v).short = v.short := by
  unfold appendSig; split <;> rfl
@[simp] theorem appendSig_exit (m : Nat) (r : SigRec) (v : LoopVars) : (appendSig m r v).exit = v.exit := by
  unfold appendSig; split <;> rfl

/-- Staging ObjectRecords changes only OBJ' and ovf. -/
theorem stageObjs_frame (e : LoopEnv) (base k : Nat) (v : LoopVars) :
    stageObjs e base k v = { v with objs := (stageObjs e base k v).objs, ovf := (stageObjs e base k v).ovf } := by
  induction k with
  | zero => rfl
  | succ k ih => simp only [stageObjs]; rw [ih]; unfold appendObj; split <;> rfl

/-- Staging SignalRecords changes only SIG' and ovf. -/
theorem stageSigs_frame (e : LoopEnv) (base k : Nat) (v : LoopVars) :
    stageSigs e base k v = { v with sigs := (stageSigs e base k v).sigs, ovf := (stageSigs e base k v).ovf } := by
  induction k with
  | zero => rfl
  | succ k ih => simp only [stageSigs]; rw [ih]; unfold appendSig; split <;> rfl

/-- One turn leaves the loop, or passes at least a TLV header and counts one TLV. -/
theorem loopTurn_progress (e : LoopEnv) (v : LoopVars) (h : v.exit = .running) :
    (loopTurn e v).exit ≠ .running ∨
      ((loopTurn e v).exit = .running ∧ v.i < e.T ∧ 8 ≤ e.P - v.c ∧ v.c + 8 ≤ (loopTurn e v).c
        ∧ (loopTurn e v).i = v.i + 1) := by
  unfold loopTurn
  split
  · rename_i hi
    split
    · exact .inl (by simp [leaveShort])
    · rename_i hc
      cases hop : fetchTlv e v with
      | posvel l =>
        refine .inr ?_
        simp only [runTlv, nextIndex, posvelBody, advance, passHeader]
        rw [stageObjs_frame]
        exact ⟨h, hi, by simp at hc; omega, Nat.le_add_right _ _, rfl⟩
      | signal l =>
        refine .inr ?_
        simp only [runTlv, nextIndex, signalBody, advance, passHeader]
        rw [stageSigs_frame]
        exact ⟨h, hi, by simp at hc; omega, Nat.le_add_right _ _, rfl⟩
      | skip t l =>
        refine .inr ?_
        simp only [runTlv, nextIndex, skipBody, advance, passHeader]
        exact ⟨h, hi, by simp at hc; omega, Nat.le_add_right _ _, trivial⟩
      | invalid t l => exact .inl (by simp [runTlv, leaveBad])
      | invalidLen t l => exact .inl (by simp [runTlv, leaveBad])
  · exact .inl (by simp)

end Machine

/-- Whatever a port carries, the decoder reads it. -/
theorem Laws.fetch_decodes {s : Machine.State} {w : Machine.PortWord} (h : Machine.fetch s = some w) :
    ∃ i, decode w.format w.bytes = .ok i := by
  obtain ⟨t, ts, -, ht⟩ := Machine.fetch_turn h
  rcases Machine.fetchTurn_cases ht with ⟨_, _, -, -, -, -, h⟩ | ⟨_, _, -, -, -, -, h⟩ | ⟨-, -, h⟩ | ⟨_, _, -, -, h⟩ | ⟨-, h⟩ <;>
    exact ⟨_, h⟩

end Sys2Proof
end

