-- ==== Sys2Proof/Laws/PerInstr.lean ====
section
/-! SUPPORT. The per-instruction family `EncodedLength`: an operation's word has a length its format knows. -/

namespace Sys2Proof

/-- How many bytes a word of each format has: a sync word is eight bytes, and with a header forty (R59, R60); a TLV header
eight (R61); a CMD word four (R72); a host address one, with the data of a write five (R50). -/
def formatLengths : Format → List Nat
  | .syncWord => [8, 40]
  | .tlvHeader => [8]
  | .cmdWord => [4]
  | .hostRead => [1]
  | .hostWrite => [5]
  | .inPort _ => [1]
  | .outPort => [0]
  | .resetPin => [0]
  | .internal => []

/-- The word of the operation, if it has one, has a length of its format. -/
def Laws.EncodedLength.Statement (i : Instr) : Prop :=
  ∀ f bs, encode i = some (f, bs) → bs.length ∈ formatLengths f

theorem Laws.EncodedLength.headerLatch (h : Header) :
    Laws.EncodedLength.Statement (.headerLatch h) := by
  rintro _ _ ⟨⟩; exact .tail _ (.head _)

theorem Laws.EncodedLength.resyncShift (sync : DWord) :
    Laws.EncodedLength.Statement (.resyncShift sync) := by
  rintro _ _ ⟨⟩; exact .head _

theorem Laws.EncodedLength.resyncCap :
    Laws.EncodedLength.Statement (.resyncCap) := by
  rintro _ _ ⟨⟩

theorem Laws.EncodedLength.lenCheck :
    Laws.EncodedLength.Statement (.lenCheck) := by
  rintro _ _ ⟨⟩

theorem Laws.EncodedLength.headerAccept :
    Laws.EncodedLength.Statement (.headerAccept) := by
  rintro _ _ ⟨⟩

theorem Laws.EncodedLength.tlvPosvel (len : Word) :
    Laws.EncodedLength.Statement (.tlvPosvel len) := by
  rintro _ _ ⟨⟩; exact .head _

theorem Laws.EncodedLength.tlvSignal (len : Word) :
    Laws.EncodedLength.Statement (.tlvSignal len) := by
  rintro _ _ ⟨⟩; exact .head _

theorem Laws.EncodedLength.tlvSkip (t len : Word) :
    Laws.EncodedLength.Statement (.tlvSkip t len) := by
  rintro _ _ ⟨⟩; exact .head _

theorem Laws.EncodedLength.tlvInvalid (t len : Word) :
    Laws.EncodedLength.Statement (.tlvInvalid t len) := by
  rintro _ _ ⟨⟩; exact .head _

theorem Laws.EncodedLength.tlvInvalidLen (t len : Word) :
    Laws.EncodedLength.Statement (.tlvInvalidLen t len) := by
  rintro _ _ ⟨⟩; exact .head _

theorem Laws.EncodedLength.tlvHdrShort :
    Laws.EncodedLength.Statement (.tlvHdrShort) := by
  rintro _ _ ⟨⟩

theorem Laws.EncodedLength.stageAppend (r : StagedRec) :
    Laws.EncodedLength.Statement (.stageAppend r) := by
  rintro _ _ ⟨⟩

theorem Laws.EncodedLength.tlvLoop :
    Laws.EncodedLength.Statement (.tlvLoop) := by
  rintro _ _ ⟨⟩

theorem Laws.EncodedLength.discard (k t len : Word) :
    Laws.EncodedLength.Statement (.discard k t len) := by
  rintro _ _ ⟨⟩

theorem Laws.EncodedLength.commit (os : List ObjRec) (gs : List SigRec) (short ovf : Bool) :
    Laws.EncodedLength.Statement (.commit os gs short ovf) := by
  rintro _ _ ⟨⟩

theorem Laws.EncodedLength.byteInHunt (b : Byte) :
    Laws.EncodedLength.Statement (.byteInHunt b) := by
  rintro _ _ ⟨⟩; exact .head _

theorem Laws.EncodedLength.byteInPayload (b : Byte) :
    Laws.EncodedLength.Statement (.byteInPayload b) := by
  rintro _ _ ⟨⟩; exact .head _

theorem Laws.EncodedLength.rowOut :
    Laws.EncodedLength.Statement (.rowOut) := by
  rintro _ _ ⟨⟩; exact .head _

theorem Laws.EncodedLength.emitEnd :
    Laws.EncodedLength.Statement (.emitEnd) := by
  rintro _ _ ⟨⟩

theorem Laws.EncodedLength.regRead (a : Addr) :
    Laws.EncodedLength.Statement (.regRead a) := by
  rintro _ _ ⟨⟩; exact .head _

theorem Laws.EncodedLength.regWrite (a : Addr) (d : Word) :
    Laws.EncodedLength.Statement (.regWrite a d) := by
  rintro _ _ ⟨⟩; exact .head _

theorem Laws.EncodedLength.regAccessFault (acc : Access) :
    Laws.EncodedLength.Statement (.regAccessFault acc) := by
  cases acc <;> rintro _ _ ⟨⟩ <;> exact .head _

theorem Laws.EncodedLength.ctrlWrite (d : Word) :
    Laws.EncodedLength.Statement (.ctrlWrite d) := by
  rintro _ _ ⟨⟩; exact .head _

theorem Laws.EncodedLength.eventsWrite (d : Word) :
    Laws.EncodedLength.Statement (.eventsWrite d) := by
  rintro _ _ ⟨⟩; exact .head _

theorem Laws.EncodedLength.irqEnWrite (d : Word) :
    Laws.EncodedLength.Statement (.irqEnWrite d) := by
  rintro _ _ ⟨⟩; exact .head _

theorem Laws.EncodedLength.cycleIdWrite (d : Word) :
    Laws.EncodedLength.Statement (.cycleIdWrite d) := by
  rintro _ _ ⟨⟩; exact .head _

theorem Laws.EncodedLength.resyncLimitWrite (d : Word) :
    Laws.EncodedLength.Statement (.resyncLimitWrite d) := by
  rintro _ _ ⟨⟩; exact .head _

theorem Laws.EncodedLength.nop :
    Laws.EncodedLength.Statement (.nop) := by
  rintro _ _ ⟨⟩; exact .head _

theorem Laws.EncodedLength.abort :
    Laws.EncodedLength.Statement (.abort) := by
  rintro _ _ ⟨⟩; exact .head _

theorem Laws.EncodedLength.restart :
    Laws.EncodedLength.Statement (.restart) := by
  rintro _ _ ⟨⟩; exact .head _

theorem Laws.EncodedLength.clearStats :
    Laws.EncodedLength.Statement (.clearStats) := by
  rintro _ _ ⟨⟩; exact .head _

theorem Laws.EncodedLength.softReset :
    Laws.EncodedLength.Statement (.softReset) := by
  rintro _ _ ⟨⟩; exact .head _

theorem Laws.EncodedLength.cmdIllegal (w : Word) :
    Laws.EncodedLength.Statement (.cmdIllegal w) := by
  rintro _ _ ⟨⟩; exact .head _

theorem Laws.EncodedLength.reset :
    Laws.EncodedLength.Statement (.reset) := by
  rintro _ _ ⟨⟩; exact .head _

end Sys2Proof
end

