-- ==== Sys2Proof/Tests/Slice0.lean ====
section
/-! SUPPORT. Tests on small states, with expected values from the examples of spec/40 to spec/43, spec/95_test_vectors.md and
the tables of spec/10 and spec/30; the ill-formed terms the check refuses; words written out bit by bit; and for each
statement with hypotheses a state that meets them. -/

namespace Sys2Proof.Tests

open Sys2Proof Sys2Proof.Machine

/-- The state a step answers; the state itself where it answers none. -/
def after (i : Instr) (s : State) : State :=
  match exec i s with
  | .next t => t
  | _ => s

/-- The sync word on the wire (R60). -/
def syncBytes : List Byte := [0x02, 0x01, 0x04, 0x03, 0x06, 0x05, 0x08, 0x07]
/-- `OBJ(1.0, 2.0, 3.0, 0.5)` (G1). -/
def obj1 : ObjRec := { x := 0x3F800000#32, y := 0x40000000#32, z := 0x40400000#32, v := 0x3F000000#32 }
/-- `OBJ(4.0, 5.0, 6.0, -0.5)` (G1). -/
def obj2 : ObjRec := { x := 0x40800000#32, y := 0x40A00000#32, z := 0x40C00000#32, v := 0xBF000000#32 }
def sig1 : SigRec := { snr := 100#16, noise := 10#16 }
def sig2 : SigRec := { snr := 200#16, noise := 20#16 }

/-- The payload of the §8 packet, byte by byte (95_test_vectors.md). -/
def s8 : List Byte :=
  [0x01, 0, 0, 0, 0x20, 0, 0, 0, 0, 0, 0x80, 0x3F, 0, 0, 0, 0x40, 0, 0, 0x40, 0x40, 0, 0, 0, 0x3F] ++
  [0, 0, 0x80, 0x40, 0, 0, 0xA0, 0x40, 0, 0, 0xC0, 0x40, 0, 0, 0, 0xBF] ++
  [0x07, 0, 0, 0, 0x08, 0, 0, 0, 0x64, 0, 0x0A, 0, 0xC8, 0, 0x14, 0]

/-- The header registers after `HDR(pl, n, t)`. -/
def hdrOf (pl n t : Word) : Header := { Header.zero with pktLen := pl, numObj := n, numTlv := t }

/-- HUNT with input on and a window. -/
def hunting (hb : List Byte) : State := { State.reset with ctrl := 1#2, hb := hb }
/-- PAYLOAD with input on, a header and what is collected. -/
def collecting (h : Header) (pb : List Byte) : State :=
  { State.reset with ctrl := 1#2, phase := .payload, hdr := h, pb := pb }
/-- EMIT with two rows of the §8 packet, the first `k` delivered. -/
def emitting (k : Nat) : State :=
  { State.reset with
    ctrl := 1#2, phase := .emit, obj := [obj1, obj2], sig := [sig1, sig2], emitN := 2, emitIdx := k, curCycle := 1#32 }
/-- HALT after a window of zeros. -/
def halted : State :=
  { State.reset with ctrl := 1#2, phase := .halt, hb := List.replicate 39 0#8, resyncLimit := 3#32, resyncCnt := 3#32
                     events := 0x012#9 }
/-- A state inside the TLV loop, the cursor past a TLV header. -/
def inLoop (h : Header) (pb : List Byte) (c : Nat) : State :=
  { collecting h pb with loop := { LoopVars.start with c := c } }

/-! ## WellFormed refuses -/

theorem test_wf_resyncShift : (Instr.resyncShift Config.magic).wellFormed = false := by decide
theorem test_wf_tlvPosvel : (Instr.tlvPosvel 10001#32).wellFormed = false := by decide
theorem test_wf_tlvSignal : (Instr.tlvSignal 10001#32).wellFormed = false := by decide
theorem test_wf_tlvSkip_type : (Instr.tlvSkip 21#32 0#32).wellFormed = false := by decide
theorem test_wf_tlvSkip_posvel : (Instr.tlvSkip 1#32 0#32).wellFormed = false := by decide
theorem test_wf_tlvSkip_signal : (Instr.tlvSkip 7#32 0#32).wellFormed = false := by decide
theorem test_wf_tlvSkip_length : (Instr.tlvSkip 3#32 10001#32).wellFormed = false := by decide
theorem test_wf_tlvInvalid_type : (Instr.tlvInvalid 20#32 0#32).wellFormed = false := by decide
theorem test_wf_tlvInvalid_length : (Instr.tlvInvalid 21#32 10001#32).wellFormed = false := by decide
theorem test_wf_tlvInvalidLen : (Instr.tlvInvalidLen 7#32 10000#32).wellFormed = false := by decide
theorem test_wf_regRead : (Instr.regRead 0x02#8).wellFormed = false := by decide
theorem test_wf_regWrite_unmapped : (Instr.regWrite 0x80#8 0#32).wellFormed = false := by decide
theorem test_wf_regWrite_own_row : (Instr.regWrite 0x0C#8 0#32).wellFormed = false := by decide
theorem test_wf_regAccessFault_read : (Instr.regAccessFault (.read 0x70#8)).wellFormed = false := by decide
theorem test_wf_regAccessFault_write : (Instr.regAccessFault (.write 0x00#8 1#32)).wellFormed = false := by decide
theorem test_wf_cmdIllegal : (Instr.cmdIllegal 4#32).wellFormed = false := by decide

/-! ## Words of each row, written out from the tables of R26, R59, R61, R64 and R72 -/

theorem test_decode_headerLatch :
    decode .syncWord (syncBytes ++ [1, 0, 0, 0, 0x60, 0, 0, 0, 2, 0, 0, 0, 3, 0, 0, 0] ++
      [4, 0, 0, 0, 2, 0, 0, 0, 2, 0, 0, 0, 5, 0, 0, 0]) =
    .ok (.headerLatch { version := 1#32, pktLen := 96#32, platform := 2#32, frameNum := 3#32, timeCpu := 4#32
                        numObj := 2#32, numTlv := 2#32, subframe := 5#32 }) := by rfl
theorem test_decode_resyncShift : decode .syncWord [0xAA, 0x02, 0x01, 0x04, 0x03, 0x06, 0x05, 0x08] =
    .ok (.resyncShift 0x08050603040102AA#64) := by rfl
theorem test_decode_tlvPosvel : decode .tlvHeader [1, 0, 0, 0, 0x20, 0, 0, 0] = .ok (.tlvPosvel 32#32) := by rfl
theorem test_decode_tlvSignal : decode .tlvHeader [7, 0, 0, 0, 8, 0, 0, 0] = .ok (.tlvSignal 8#32) := by rfl
theorem test_decode_tlvSkip_zero : decode .tlvHeader [0, 0, 0, 0, 4, 0, 0, 0] = .ok (.tlvSkip 0#32 4#32) := by rfl
theorem test_decode_tlvSkip_last : decode .tlvHeader [0x14, 0, 0, 0, 0x10, 0x27, 0, 0] =
    .ok (.tlvSkip 20#32 10000#32) := by rfl
theorem test_decode_tlvInvalid : decode .tlvHeader [0x15, 0, 0, 0, 0, 0, 0, 0] = .ok (.tlvInvalid 21#32 0#32) := by rfl
theorem test_decode_tlvInvalidLen : decode .tlvHeader [1, 0, 0, 0, 0x11, 0x27, 0, 0] =
    .ok (.tlvInvalidLen 1#32 10001#32) := by rfl
theorem test_decode_byteInHunt : decode (.inPort .hunt) [0x03] = .ok (.byteInHunt 0x03#8) := by rfl
theorem test_decode_byteInPayload : decode (.inPort .payload) [0x03] = .ok (.byteInPayload 0x03#8) := by rfl
theorem test_decode_inPort_halt : decode (.inPort .halt) [0x03] = .error .inputNotReady := by rfl
theorem test_decode_rowOut : decode .outPort [] = .ok .rowOut := by rfl
theorem test_decode_regRead : decode .hostRead [0x7C] = .ok (.regRead 0x7C#8) := by rfl
theorem test_decode_regWrite : decode .hostWrite [0x54, 5, 0, 0, 0] = .ok (.regWrite 0x54#8 5#32) := by rfl
theorem test_decode_fault_misaligned : decode .hostRead [0x01] = .ok (.regAccessFault (.read 0x01#8)) := by rfl
theorem test_decode_fault_unmapped : decode .hostWrite [0x80, 1, 0, 0, 0] =
    .ok (.regAccessFault (.write 0x80#8 1#32)) := by rfl
theorem test_decode_ctrlWrite : decode .hostWrite [0x00, 3, 0, 0, 0] = .ok (.ctrlWrite 3#32) := by rfl
theorem test_decode_eventsWrite : decode .hostWrite [0x0C, 0xFF, 1, 0, 0] = .ok (.eventsWrite 0x1FF#32) := by rfl
theorem test_decode_irqEnWrite : decode .hostWrite [0x10, 0xFD, 1, 0, 0] = .ok (.irqEnWrite 0x1FD#32) := by rfl
theorem test_decode_cycleIdWrite : decode .hostWrite [0x14, 0x0A, 0, 0, 0] = .ok (.cycleIdWrite 10#32) := by rfl
theorem test_decode_resyncLimitWrite : decode .hostWrite [0x18, 3, 0, 0, 0] = .ok (.resyncLimitWrite 3#32) := by rfl
theorem test_decode_nop : decode .cmdWord [0, 0, 0, 0] = .ok .nop := by rfl
theorem test_decode_abort : decode .hostWrite [0x04, 1, 0, 0, 0] = .ok .abort := by rfl
theorem test_decode_restart : decode .cmdWord [2, 0, 0, 0] = .ok .restart := by rfl
theorem test_decode_clearStats : decode .cmdWord [3, 0, 0, 0] = .ok .clearStats := by rfl
theorem test_decode_softReset : decode .cmdWord [4, 0, 0, 0] = .ok .softReset := by rfl
theorem test_decode_cmdIllegal : decode .cmdWord [0, 0, 0, 0x80] = .ok (.cmdIllegal 0x80000000#32) := by rfl
theorem test_decode_reset : decode .resetPin [] = .ok .reset := by rfl
theorem test_decode_internal : decode .internal [] = .error .noBitPattern := by rfl
theorem test_table_word_tlv : decodeTableWord 32 0x16 = some (.tlvInvalid 22#32 0#32) := by rfl
theorem test_table_word_host : decodeTableWord 8 0x0C = some (.eventsWrite 0#32) := by rfl
theorem test_table_word_sync : decodeTableWord 64 0x0708050603040102 = some (.headerLatch Header.zero) := by rfl

/-! ## Operations -/

/-- The example of R77. -/
theorem test_byteInHunt_fills :
    (after (.byteInHunt 0x03) (hunting [0x02, 0x01, 0x04])).hb = [0x02, 0x01, 0x04, 0x03] := by rfl
/-- Vector H2: forty zeros give one shift. -/
theorem test_byteInHunt_shifts :
    let t := after (.byteInHunt 0) (hunting (List.replicate 39 0))
    t.hb.length = 39 ∧ t.resyncCnt = 1#32 ∧ t.events = 0x002#9 ∧ t.phase = .hunt := by decide
/-- Vector L1.1, byte 40: `HDR(96, 2, 2)` goes to PAYLOAD. -/
theorem test_byteInHunt_latches :
    let t := after (.byteInHunt 0) (hunting ((headerBytes (hdrOf 96#32 2#32 2#32)).take 39))
    t.phase = .payload ∧ t.hdr = hdrOf 96#32 2#32 2#32 ∧ t.hb = [] := by decide
/-- Vector LEN1: packetLength 39 is LEN_BAD. -/
theorem test_headerLatch_bad_length :
    let t := after (.headerLatch (hdrOf 39#32 0#32 0#32)) (hunting [])
    t.phase = .hunt ∧ t.events = 0x008#9 ∧ t.discardCnt = 1#32 ∧ t.lastOutcome = 3#7 ∧ t.hdr.pktLen = 39#32 := by decide
/-- Vector LEN4: an empty payload with a TLV declared commits with SHORT. -/
theorem test_headerLatch_empty_payload :
    let t := after (.headerLatch (hdrOf 40#32 0#32 1#32)) (hunting [])
    t.phase = .hunt ∧ t.events = 0x041#9 ∧ t.frameCnt = 1#32 ∧ t.lastOutcome = 0x21#7 := by decide
/-- Vector H10: the count saturates. -/
theorem test_resyncShift_saturates :
    (after (.resyncShift 0#64) { hunting (List.replicate 40 0) with resyncCnt := 0xFFFFFFFF#32 }).resyncCnt
      = 0xFFFFFFFF#32 := by decide
/-- Vector H7: a limit of 1 halts at the first mismatch. -/
theorem test_resyncShift_halts :
    let t := after (.resyncShift 0#64) { hunting (List.replicate 40 0xAA) with resyncLimit := 1#32 }
    t.phase = .halt ∧ t.events = 0x012#9 ∧ t.hb.length = 39 := by decide
/-- R82: a limit of 0 is no cap. -/
theorem test_resyncCap_off : (after .resyncCap { hunting [] with resyncCnt := 9#32 }).phase = .hunt := by decide
/-- R82: the comparison is "at least". -/
theorem test_resyncCap_above :
    (after .resyncCap { hunting [] with resyncCnt := 7#32, resyncLimit := 2#32 }).phase = .halt := by decide
/-- Vectors LEN5 and LEN6: 40 + PAYLOAD_MAX is the last legal length. -/
theorem test_lenCheck_bounds :
    (after .lenCheck { hunting [] with hdr := hdrOf 16424#32 0#32 0#32 }).phase = .payload ∧
    (after .lenCheck { hunting [] with hdr := hdrOf 16425#32 0#32 0#32 }).lastOutcome = 3#7 := by decide
/-- The example of R84. -/
theorem test_headerAccept_no_tlv :
    let t := after .headerAccept { hunting [] with hdr := hdrOf 40#32 5#32 0#32 }
    t.lastRows = 0#32 ∧ t.lastOutcome = 1#7 ∧ t.phase = .hunt := by decide
/-- Vector L1.1, byte 96: the last payload byte commits two rows. -/
theorem test_byteInPayload_commits :
    let t := after (.byteInPayload 0) (collecting (hdrOf 96#32 2#32 2#32) (s8.take 55))
    t.phase = .emit ∧ t.obj = [obj1, obj2] ∧ t.sig = [sig1, sig2] ∧ t.lastOutcome = 1#7 := by decide
/-- Vector T2: type 21 is discarded. -/
theorem test_byteInPayload_discards :
    let t := after (.byteInPayload 0) (collecting (hdrOf 48#32 0#32 1#32) [0x15, 0, 0, 0, 0, 0, 0])
    t.phase = .hunt ∧ t.events = 0x004#9 ∧ t.badTlvType = 21#32 ∧ t.lastOutcome = 2#7 := by decide
/-- The example of R92. -/
theorem test_tlvPosvel :
    let t := after (.tlvPosvel 32#32) (inLoop (hdrOf 96#32 2#32 2#32) s8 8)
    t.loop.objs = [obj1, obj2] ∧ t.loop.c = 40 ∧ t.loop.short = false := by decide
/-- Vector T10: a partial record is skipped with SHORT. -/
theorem test_tlvPosvel_partial :
    let t := after (.tlvPosvel 32#32) (inLoop (hdrOf 72#32 2#32 2#32) (s8.take 32) 8)
    t.loop.objs = [obj1] ∧ t.loop.c = 32 ∧ t.loop.short = true := by decide
/-- The example of R93. -/
theorem test_tlvSignal :
    let t := after (.tlvSignal 8#32) (inLoop (hdrOf 96#32 2#32 2#32) s8 48)
    t.loop.sigs = [sig1, sig2] ∧ t.loop.c = 56 := by decide
/-- L1.4: one signal is missing. -/
theorem test_tlvSignal_short :
    let t := after (.tlvSignal 12#32) (inLoop (hdrOf 96#32 3#32 2#32) s8 48)
    t.loop.sigs = [sig1, sig2] ∧ t.loop.short = true ∧ t.loop.c = 56 := by decide
/-- The example of R94. -/
theorem test_tlvSkip : (after (.tlvSkip 3#32 4#32) (inLoop (hdrOf 64#32 1#32 2#32) [] 8)).loop.c = 12 := by decide
/-- Vector T4: a legal length past the payload clamps with SHORT. -/
theorem test_tlvSkip_clamps :
    let t := after (.tlvSkip 20#32 10000#32) (inLoop (hdrOf 48#32 0#32 1#32) [] 8)
    t.loop.c = 8 ∧ t.loop.short = true := by decide
/-- The examples of R91. -/
theorem test_tlvInvalid :
    (after (.tlvInvalid 21#32 0#32) (inLoop (hdrOf 48#32 0#32 1#32) [] 0)).loop.exit = .discarded 0 21#32 0#32 := by decide
theorem test_tlvInvalidLen :
    (after (.tlvInvalidLen 7#32 10001#32) (inLoop (hdrOf 48#32 0#32 1#32) [] 0)).loop.exit
      = .discarded 0 7#32 10001#32 := by decide
/-- The example of R90. -/
theorem test_tlvHdrShort :
    let t := after .tlvHdrShort (inLoop (hdrOf 44#32 1#32 1#32) [1, 0, 0, 0] 0)
    t.loop.short = true ∧ t.loop.exit = .committed := by decide
/-- R95 with MAX_OBJ = 1. -/
theorem test_stageAppend_drops :
    let s := { inLoop (hdrOf 96#32 2#32 2#32) [] 8 with params := { payloadMax := 8, maxObj := 1 } }
    let t := after (.stageAppend (.obj obj2)) (after (.stageAppend (.obj obj1)) s)
    t.loop.objs = [obj1] ∧ t.loop.ovf = true := by decide
/-- Vector T17: the illegal TLV at index 1 wins over what is staged. -/
theorem test_tlvLoop_discards :
    (after .tlvLoop (collecting (hdrOf 96#32 2#32 2#32)
      (s8.take 40 ++ [0x16, 0, 0, 0, 8, 0, 0, 0, 1, 0, 1, 0, 2, 0, 2, 0]))).loop.exit
      = .discarded 1 22#32 8#32 := by decide
/-- Vector T20: 2^32 - 1 declared TLVs end with the payload. -/
theorem test_tlvLoop_many_tlvs :
    let t := after .tlvLoop (collecting (hdrOf 96#32 2#32 0xFFFFFFFF#32) s8)
    t.loop.exit = .committed ∧ t.loop.i = 2 ∧ t.loop.short = true ∧ t.loop.objs.length = 2 := by decide
/-- R97, the counter wrapping. -/
theorem test_discard_wraps :
    let t := after (.discard 1#32 22#32 8#32) { collecting (hdrOf 96#32 2#32 2#32) [1] with discardCnt := 0xFFFFFFFF#32 }
    t.discardCnt = 0#32 ∧ t.badTlvIndex = 1#32 ∧ t.pb = [] ∧ t.phase = .hunt := by decide
/-- L1.4: three objects and two signals. -/
theorem test_commit_truncates :
    let t := after (.commit [obj1, obj2, obj1] [sig1, sig2] true false) (collecting (hdrOf 112#32 3#32 2#32) [])
    t.events = 0x061#9 ∧ t.lastOutcome = 0x31#7 ∧ t.emitN = 2 ∧ t.lastObjLen = 3#32 := by decide
/-- Vector C1: a commit without rows advances the id. -/
theorem test_commit_autoinc :
    let t := after (.commit [] [] false false) { collecting (hdrOf 40#32 0#32 0#32) [] with ctrl := 3#2, cycleId := 5#32 }
    t.cycleId = 6#32 ∧ t.lastCycle = 5#32 ∧ t.curCycle = 5#32 ∧ t.phase = .hunt := by decide
/-- The first row of R101's example. -/
theorem test_rowOut_first :
    let t := after .rowOut (emitting 0)
    t.dataset = [{ row := { cycle := 1#32, object := 1#32, x := 0x3F800000#32, y := 0x40000000#32, z := 0x40400000#32
                            v := 0x3F000000#32, snr := 100#16, noise := 10#16 }, last := false }] ∧
    t.phase = .emit ∧ t.rowCnt = 1#32 := by decide
/-- The last row of R101's example ends the emission. -/
theorem test_rowOut_last :
    let t := after .rowOut (emitting 1)
    t.phase = .hunt ∧ t.obj = [] ∧ t.emitN = 0 ∧ t.dataset.map (·.last) = [true] ∧
      t.dataset.map (·.row.object) = [2#32] := by decide
theorem test_emitEnd : nothingStaged (after .emitEnd (emitting 1)) := by decide
/-- Vector B16. -/
theorem test_regRead_magic : (after (.regRead 0x74#8) State.reset).hostResp = .read 0x07080506#32 false := by decide
/-- STATUS in EMIT with the FRAME interrupt: 0x2E. -/
theorem test_regRead_status :
    (after (.regRead 0x08#8) { emitting 0 with events := 1#9, irqEn := 1#9 }).hostResp = .read 0x2E#32 false := by decide
/-- Vector B6: a write to a read-only register. -/
theorem test_regWrite_read_only :
    let t := after (.regWrite 0x54#8 5#32) State.reset
    t.hostResp = .write false ∧ t.hdr.pktLen = 0#32 := by decide
/-- Vector B3. -/
theorem test_regWrite_unmapped : (after (.regWrite 0x81#8 0xFFFFFFFF#32) State.reset).hostResp = .write true := by decide
/-- Vectors B1 and B2. -/
theorem test_regAccessFault : (after (.regAccessFault (.read 0x7E#8)) State.reset).hostResp = .read 0#32 true := by decide
/-- Vector B4. -/
theorem test_ctrlWrite :
    let t := after (.ctrlWrite 0xFFFFFFFF#32) State.reset
    readReg t .ctrl = 3#32 ∧ readReg t .status = 0x10#32 := by decide
/-- R110's example. -/
theorem test_eventsWrite :
    (after (.eventsWrite 1#32) { State.reset with events := 3#9 }).events = 2#9 := by decide
/-- Vector B5. -/
theorem test_irqEnWrite : readReg (after (.irqEnWrite 0xFFFFFFFF#32) State.reset) .irqEn = 0x1FF#32 := by decide
/-- Vector C6: the rows to come keep CUR_CYCLE. -/
theorem test_cycleIdWrite :
    let t := after (.cycleIdWrite 9#32) (emitting 0)
    t.cycleId = 9#32 ∧ t.curCycle = 1#32 := by decide
/-- P4: a limit of 0 does not leave HALT. -/
theorem test_resyncLimitWrite :
    let t := after (.resyncLimitWrite 0#32) halted
    t.phase = .halt ∧ t.resyncLimit = 0#32 ∧ t.resyncCnt = 3#32 := by decide
theorem test_nop : after .nop halted = { halted with hostResp := .write false } := by decide
/-- Vector B14. -/
theorem test_abort_payload :
    let t := after .abort (collecting (hdrOf 96#32 2#32 2#32) (s8.take 10))
    t.phase = .hunt ∧ t.pb = [] ∧ t.lastOutcome = 4#7 ∧ t.hdr.pktLen = 96#32 ∧ t.discardCnt = 0#32 := by decide
/-- Vector B12. -/
theorem test_abort_emit : after .abort (emitting 1) = { emitting 1 with hostResp := .write false } := by decide
/-- R114's example. -/
theorem test_restart_halt :
    let t := after .restart halted
    t.phase = .hunt ∧ t.resyncCnt = 0#32 ∧ t.hb.length = 39 ∧ t.events = 0x012#9 := by decide
/-- R133: in HUNT, RESTART is a known point for the cap; the window stays (log entry 27). -/
theorem test_restart_hunt :
    let t := after .restart { hunting [1, 2] with resyncCnt := 2#32 }
    t.phase = .hunt ∧ t.resyncCnt = 0#32 ∧ t.hb = [1, 2] := by decide
theorem test_clearStats :
    let t := after .clearStats { halted with frameCnt := 1#32, discardCnt := 2#32, rowCnt := 3#32 }
    t.frameCnt = 0#32 ∧ t.discardCnt = 0#32 ∧ t.rowCnt = 0#32 ∧ t.resyncCnt = 3#32 := by decide
/-- Vector B10: the configuration is kept, the rest is not. -/
theorem test_softReset :
    let t := after .softReset { emitting 1 with ctrl := 3#2, irqEn := 0x1FF#9, resyncLimit := 100#32, cycleId := 13#32 }
    t.phase = .hunt ∧ t.obj = [] ∧ t.ctrl = 3#2 ∧ t.irqEn = 0x1FF#9 ∧ t.resyncLimit = 100#32 ∧ t.cycleId = 13#32 := by
  decide
/-- Vector B7. -/
theorem test_cmdIllegal :
    let t := after (.cmdIllegal 5#32) { hunting [] with irqEn := 0x1FF#9 }
    t.events = 0x100#9 ∧ readReg t .status = 0x18#32 ∧ t.hostResp = .write false := by decide
/-- Vector X3. -/
theorem test_reset_halt : after .reset halted = State.reset := by decide
theorem test_reset_keeps_dataset :
    (after .reset (after .rowOut (emitting 0))).dataset.length = 1 := by decide

/-! ## Pseudo-operations (R76) -/

/-- Vector H5: `HDR(96, 2, 2, 1, 2, 3, 4, 5)`. -/
theorem test_pseudoHdr_all_fields :
    pseudoHdr 96#32 2#32 2#32 1#32 2#32 3#32 4#32 5#32 =
      syncBytes ++ [1, 0, 0, 0, 0x60, 0, 0, 0, 2, 0, 0, 0, 3, 0, 0, 0] ++
        [4, 0, 0, 0, 2, 0, 0, 0, 2, 0, 0, 0, 5, 0, 0, 0] := by decide
/-- Vector T18: a header inside a PACKET counts as 40 bytes and as no TLV. -/
theorem test_pseudoPacket_inner_header :
    (pseudoPacket 0 [.tlv 2#32 40#32, .hdr 40#32 0#32 0#32 0#32 0#32 0#32 0#32 0#32]).take 40 =
      pseudoHdr 0x58#32 0#32 1#32 := by decide
/-- Vector T15: the written-out payload and 12 bytes of filling make 0x6C bytes. -/
theorem test_pseudoPacket_raw : (pseudoPacket 2 [.raw s8, .fill 12 0x55]).length = 0x6C := by decide

/-! ## Steps -/

/-- A word of the table runs in the very next step after reset. -/
theorem test_step_table_tlv :
    (match step (State.reset.withFetchWord 32 21) with | .next t => t.badTlvType | _ => 0#32) = 21#32 := by decide
theorem test_step_table_sync :
    (match step (State.reset.withFetchWord 64 5) with | .next t => t.events | _ => 0#9) = 0x002#9 := by decide
theorem test_step_table_host :
    (match step (State.reset.withFetchWord 8 0x81) with | .next t => t.hostResp | _ => .none) = .write true := by decide
/-- P5, the command at CMD through the port. -/
theorem test_step_command :
    (match step { collecting (hdrOf 96#32 2#32 2#32) [1] with
        script := [.access (.write 0x04#8 1#32)], schedule := [.host] } with
      | .next t => t.lastOutcome | _ => 0#7) = 4#7 := by decide

/-! ## Witnesses: states and operands that meet the hypotheses of each statement, clause by clause -/

/-- The state with one turn scheduled. -/
def scheduled (t : Turn) (s : State) : State := { s with schedule := [t] }
/-- The state with one host access about to run. -/
def accessing (x : Access) (s : State) : State := { s with script := [.access x], schedule := [.host] }
/-- The state with bytes offered and as many turns of the Source. -/
def fed (bs : List Byte) (s : State) : State := { s with source := bs, schedule := List.replicate bs.length .source }
theorem fed_schedule (bs : List Byte) (s : State) : (fed bs s).schedule = List.replicate bs.length .source := rfl
/-- The packet of R98. -/
def packetOf (os : List ObjRec) (gs : List SigRec) : List Byte :=
  pseudoPacket os.length
    ([.tlv 1#32 (BitVec.ofNat 32 (16 * os.length))] ++ os.map .obj ++
     [.tlv 7#32 (BitVec.ofNat 32 (4 * os.length))] ++ gs.map .sig)
/-- 626 records: the first count whose declared length passes 10000. -/
def manyObjs : List ObjRec := List.replicate 626 obj1
def manySigs : List SigRec := List.replicate 626 sig1

theorem test_witness_DecodeAfterEncode :
    (Instr.tlvSkip 20#32 10000#32).wellFormed = true ∧
    encode (.tlvSkip 20#32 10000#32) = some (.tlvHeader, [0x14, 0, 0, 0, 0x10, 0x27, 0, 0]) := by decide
theorem test_witness_EncodeAfterDecode :
    decode .hostWrite [0x18, 3, 0, 0, 0] = .ok (.resyncLimitWrite 3#32) ∧ Format.hostWrite ≠ .syncWord ∧
    byteAt [0x18, 3, 0, 0, 0] 0 ≠ 0x04#8 := ⟨rfl, by decide, by decide⟩
theorem test_witness_TableRowsName_type :
    (⟨"TLV_SKIP", 0x14#32, 0xffffffff#32⟩ : TableRow) ∈ tlvTypeRows ∧ (10000#32).toNat ≤ 10000 ∧
    TableRow.applies ⟨"TLV_SKIP", 0x14#32, 0xffffffff#32⟩ 20#32 = true := by decide
theorem test_witness_TableRowsName_length :
    (⟨"TLV_INVALID_LEN", 0x2711#32, 0xffffffff#32⟩ : TableRow) ∈ tlvLengthRows ∧
    TableRow.applies ⟨"TLV_INVALID_LEN", 0x2711#32, 0xffffffff#32⟩ 10001#32 = true := by decide
theorem test_witness_TableRowsName_cmd :
    (⟨"CMD_ILLEGAL", 5#32, 0xffffffff#32⟩ : TableRow) ∈ cmdRows ∧
    TableRow.applies ⟨"CMD_ILLEGAL", 5#32, 0xffffffff#32⟩ 5#32 = true := by decide
theorem test_witness_SyncDetector : 8 ≤ syncBytes.length := by decide
theorem test_witness_HuntByte_fills :
    (hunting (List.replicate 38 0)).phase = .hunt ∧ enabled (hunting (List.replicate 38 0)) = true ∧
    (hunting (List.replicate 38 0)).hb.length ≠ 39 := by decide
theorem test_witness_HuntByte_latches :
    let s := hunting ((headerBytes (hdrOf 96#32 2#32 2#32)).take 39)
    s.phase = .hunt ∧ enabled s = true ∧ s.hb.length = 39 ∧ le64 (s.hb ++ [0#8]) 0 = 0x0708050603040102#64 := by decide
theorem test_witness_HuntByte_shifts :
    let s := hunting (List.replicate 39 0)
    s.phase = .hunt ∧ enabled s = true ∧ s.hb.length = 39 ∧ le64 (s.hb ++ [0#8]) 0 ≠ 0x0708050603040102#64 := by decide
theorem test_witness_HeaderLatch :
    (headerBytes (hdrOf 96#32 2#32 2#32)).length = 40 ∧
    le64 (headerBytes (hdrOf 96#32 2#32 2#32)) 0 = 0x0708050603040102#64 := by decide
/-- The count that the shift makes equal to the limit, one short of it, and a limit of 0. -/
theorem test_witness_ResyncShift :
    (3#32 ≠ 0#32 ∧ (3#32).toNat ≤ (BitVec.ofNat 32 (min ((2#32).toNat + 1) (2 ^ 32 - 1))).toNat) ∧
    ¬(3#32 ≠ 0#32 ∧ (3#32).toNat ≤ (BitVec.ofNat 32 (min ((1#32).toNat + 1) (2 ^ 32 - 1))).toNat) ∧
    ¬(0#32 ≠ 0#32 ∧ (0#32).toNat ≤ (BitVec.ofNat 32 (min ((1#32).toNat + 1) (2 ^ 32 - 1))).toNat) := by decide
theorem test_witness_ResyncCap :
    (halted.resyncLimit ≠ 0#32 ∧ halted.resyncLimit.toNat ≤ halted.resyncCnt.toNat) ∧
    ¬((hunting []).resyncLimit ≠ 0#32 ∧ (hunting []).resyncLimit.toNat ≤ (hunting []).resyncCnt.toNat) := by decide
/-- 39 and 16425 are discarded, 40 and 16424 are not. -/
theorem test_witness_LengthCheck :
    let bad (w : Word) : Prop := w.toNat < 40 ∨ (hunting []).params.payloadMax < w.toNat - 40
    ((hunting []).hb = [] ∧ (hunting []).pb = [] ∧ (hunting []).obj = [] ∧ (hunting []).sig = []) ∧
    bad 39#32 ∧ bad 16425#32 ∧ ¬bad 40#32 ∧ ¬bad 16424#32 := by decide
theorem test_witness_HeaderAccept : (hdrOf 41#32 0#32 0#32).pktLen.toNat ≠ 40 ∧ (hdrOf 40#32 0#32 0#32).pktLen.toNat = 40 := by
  decide
theorem test_witness_InputWaits :
    enabled (scheduled .source State.reset) = false ∧ (scheduled .source (emitting 0)).phase = .emit ∧
    (scheduled .source halted).phase = .halt ∧ (scheduled .source halted).schedule = [.source] := by decide
/-- No cap, and a cap of 2 with one garbage byte: one mismatch fewer than it takes to halt. -/
theorem test_witness_SearchLatches_found :
    let bs := 0xAA#8 :: headerBytes (hdrOf 96#32 2#32 2#32)
    let s := fed bs (hunting [])
    let u := { s with resyncLimit := 2#32 }
    (s.phase = .hunt ∧ s.hb = [] ∧ enabled s = true ∧ s.source = bs ∧ s.schedule = List.replicate bs.length .source) ∧
    firstSync bs = some 1 ∧ s.resyncLimit = 0#32 ∧ 1 < max 1 (u.resyncLimit.toNat - u.resyncCnt.toNat) := by decide
/-- Fewer than forty bytes under a cap of 1. -/
theorem test_witness_SearchLatches_none :
    let bs := (headerBytes (hdrOf 96#32 2#32 2#32)).take 39
    let s := fed bs { hunting [] with resyncLimit := 1#32 }
    s.phase = .hunt ∧ s.hb = [] ∧ enabled s = true ∧ s.source = bs ∧ s.schedule = List.replicate bs.length .source ∧
    firstSync bs = none ∧ bs.length - 39 < max 1 (s.resyncLimit.toNat - s.resyncCnt.toNat) := by decide
/-- Vector H7: a cap of 1 and forty bytes; and a count already above a limit written later (R133). -/
theorem test_witness_SearchLatches_halts :
    let bs := List.replicate 40 0xAA#8
    let s := fed bs { hunting [] with resyncLimit := 1#32 }
    s.phase = .hunt ∧ s.hb = [] ∧ enabled s = true ∧ s.source = bs ∧ s.schedule = List.replicate bs.length .source ∧
    s.resyncLimit ≠ 0#32 ∧ max 1 (s.resyncLimit.toNat - s.resyncCnt.toNat) + 39 ≤ bs.length ∧ firstSync bs = none ∧
    max 1 ((2#32).toNat - (6#32).toNat) + 39 ≤ bs.length := by decide
/-- Garbage that ends with the sync word's first seven bytes. -/
theorem test_witness_GarbageOnlyDelays : ∀ p, p + 8 ≤ (syncBytes.take 7).length → le64 (syncBytes.take 7) p ≠ Config.magic := by
  intro p h; simp [syncBytes] at h
/-- The same garbage under a cap of 8, the least that allows seven mismatches. -/
theorem test_witness_GarbageOnlyDelays_run :
    let g := syncBytes.take 7
    let bs := g ++ headerBytes (hdrOf 96#32 2#32 2#32) ++ [1#8]
    let s := fed bs { hunting [] with resyncLimit := 8#32 }
    s.phase = .hunt ∧ s.hb = [] ∧ enabled s = true ∧ s.resyncCnt.toNat + g.length < s.resyncLimit.toNat ∧ s.source = bs ∧
    s.schedule = List.replicate (g.length + 40 + [1#8].length) .source := by decide
theorem test_witness_OnlyTheHostLeavesHalt :
    halted.phase = .halt ∧ ∃ t, step (accessing (.write 0x04#8 2#32) halted) = .next t ∧ t.phase ≠ .halt :=
  ⟨rfl, _, rfl, by decide⟩
/-- The staging arrays full to MAX_OBJ. -/
theorem test_witness_Posvel_Signal :
    let s := { inLoop (hdrOf 96#32 2#32 2#32) s8 8 with
      params := { payloadMax := 56, maxObj := 1 }, loop := { LoopVars.start with objs := [obj1], sigs := [sig1], c := 8 } }
    s.loop.objs.length ≤ s.params.maxObj ∧ s.loop.sigs.length ≤ s.params.maxObj := by decide
theorem test_witness_CutHeader :
    let e : LoopEnv := { pb := [1, 0, 0, 0, 0, 0, 0], P := 7, N := 0, T := 1, maxObj := 1 }
    LoopVars.start.i < e.T ∧ e.P - LoopVars.start.c < 8 := by decide
/-- A whole header: the last legal type and length, the first illegal type, the first illegal length; exactly 8 bytes left. -/
theorem test_witness_LoopTurn_whole :
    let s := collecting (hdrOf 48#32 0#32 1#32) [20, 0, 0, 0, 0x10, 0x27, 0, 0]
    let e (a b : Byte) : LoopEnv := { pb := [a, 0, 0, 0, b, 0x27, 0, 0], P := 8, N := 0, T := 1, maxObj := 1 }
    (s.loop.i < s.hdr.numTlv.toNat ∧ 8 ≤ s.hdr.pktLen.toNat - 40 - s.loop.c ∧ (le32 s.pb s.loop.c).toNat = 20 ∧
      (le32 s.pb (s.loop.c + 4)).toNat = 10000) ∧
    (LoopVars.start.i < (e 21 0).T ∧ 8 ≤ (e 21 0).P - LoopVars.start.c ∧ (le32 (e 21 0).pb LoopVars.start.c).toNat = 21) ∧
    (le32 (e 7 0x11).pb (LoopVars.start.c + 4)).toNat = 10001 := by decide
/-- The declared TLVs are done. -/
theorem test_witness_LoopTurn_done :
    let e : LoopEnv := { pb := [0xFF], P := 1, N := 0, T := 0, maxObj := 1 }
    e.T ≤ LoopVars.start.i := by decide
theorem test_witness_Append :
    let s := inLoop (hdrOf 96#32 2#32 2#32) s8 8
    let full := { s with params := { payloadMax := 56, maxObj := 1 }, loop := { s.loop with objs := [obj1], sigs := [sig1] } }
    s.loop.objs.length < s.params.maxObj ∧ full.params.maxObj ≤ full.loop.objs.length ∧
    s.loop.sigs.length < s.params.maxObj ∧ full.params.maxObj ≤ full.loop.sigs.length := by decide
theorem test_witness_LoopReads :
    let e : LoopEnv := { pb := s8, P := 56, N := 2, T := 2, maxObj := 4 }
    e.pb.length = e.P := by decide
theorem test_witness_PayloadByte_collects :
    let s := collecting (hdrOf 96#32 2#32 2#32) (s8.take 54)
    s.phase = .payload ∧ enabled s = true ∧ s.pb.length + 1 ≠ s.hdr.pktLen.toNat - 40 := by decide
theorem test_witness_PayloadByte_commits :
    let s := collecting (hdrOf 96#32 2#32 2#32) (s8.take 55)
    s.phase = .payload ∧ enabled s = true ∧ s.pb.length + 1 = s.hdr.pktLen.toNat - 40 ∧
    (tlvLoop (loopEnv { s with pb := s.pb ++ [0#8], loop := LoopVars.start })).exit = .committed := by decide
theorem test_witness_PayloadByte_discards :
    let s := collecting (hdrOf 48#32 0#32 1#32) [0x15, 0, 0, 0, 0, 0, 0]
    s.phase = .payload ∧ enabled s = true ∧ s.pb.length + 1 = s.hdr.pktLen.toNat - 40 ∧
    (tlvLoop (loopEnv { s with pb := s.pb ++ [0#8], loop := LoopVars.start })).exit = .discarded 0 21#32 0#32 := by decide
theorem test_witness_Discard : (collecting (hdrOf 96#32 2#32 2#32) [1]).hb = [] := by decide
theorem test_witness_RowOut :
    (emitting 0).phase = .emit ∧ (emitting 0).obj[(emitting 0).emitIdx]? = some obj1 ∧
    (emitting 0).sig[(emitting 0).emitIdx]? = some sig1 ∧ (emitting 0).emitIdx + 1 ≠ (emitting 0).emitN ∧
    (emitting 1).phase = .emit ∧ (emitting 1).obj[(emitting 1).emitIdx]? = some obj2 ∧
    (emitting 1).sig[(emitting 1).emitIdx]? = some sig2 ∧ (emitting 1).emitIdx + 1 = (emitting 1).emitN := by decide
theorem test_witness_EmitEnd : (hunting []).phase ≠ .emit := by decide
theorem test_witness_EmissionDelivers :
    let s := { emitting 0 with schedule := [.sink, .sink, .source] }
    StateInv s ∧ s.phase = .emit ∧ s.schedule = List.replicate (s.emitN - s.emitIdx) .sink ++ [.source] :=
  ⟨by decide, rfl, rfl⟩
theorem test_witness_PacketRoundTrip :
    let s := fed (packetOf [obj1] [sig1]) (hunting [])
    StateInv s ∧ s.phase = .hunt ∧ s.hb = [] ∧ enabled s = true ∧ [obj1].length = [sig1].length ∧ 1 ≤ [obj1].length ∧
    [obj1].length ≤ s.params.maxObj ∧ 56 + 20 * [obj1].length ≤ 40 + s.params.payloadMax ∧ 16 * [obj1].length ≤ 10000 ∧
    s.source = packetOf [obj1] [sig1] ∧ s.schedule = List.replicate (packetOf [obj1] [sig1]).length .source :=
  ⟨by decide, rfl, rfl, by decide, rfl, by decide, by decide, by decide, by decide, rfl, rfl⟩
theorem test_witness_LongPacket :
    let s := fed (packetOf manyObjs manySigs) (hunting [])
    StateInv s ∧ s.phase = .hunt ∧ s.hb = [] ∧ enabled s = true ∧ manyObjs.length = manySigs.length ∧
    56 + 20 * manyObjs.length ≤ 40 + s.params.payloadMax ∧ 10000 < 16 * manyObjs.length ∧ 16 * manyObjs.length < 2 ^ 32 ∧
    s.source = packetOf manyObjs manySigs ∧ s.schedule = List.replicate (packetOf manyObjs manySigs).length .source := by
  have h : manyObjs.length = 626 := by simp only [manyObjs, List.length_replicate]
  have h' : manySigs.length = 626 := by simp only [manySigs, List.length_replicate]
  exact ⟨(by decide : StateInv (hunting [])), rfl, rfl, by decide, h.trans h'.symm, by rw [h]; decide, by rw [h]; decide,
    by rw [h]; decide, rfl, fed_schedule _ _⟩
theorem test_witness_DatasetIsTheParsedStream :
    let s := { hunting [] with source := packetOf [obj1] [sig1] }
    StateInv s ∧ s.phase = .hunt ∧ s.hb = [] ∧ enabled s = true ∧ s.resyncLimit = 0#32 :=
  ⟨by decide, rfl, rfl, by decide, rfl⟩
theorem test_witness_RegRead :
    ((0x7C#8).toNat % 4 = 0 ∧ (0x7C#8).toNat < 0x80) ∧ (0x01#8).toNat % 4 ≠ 0 ∧ 0x80 ≤ (0x80#8).toNat := by decide
theorem test_witness_RegWrite :
    ((0x1C#8).toNat % 4 = 0 ∧ (0x1C#8).toNat < 0x80 ∧ (0x1C#8).toNat ∉ [0x00, 0x04, 0x0C, 0x10, 0x14, 0x18]) ∧
    Reg.access .cfgMaxObj = .ro ∧ (0x02#8).toNat % 4 ≠ 0 ∧ 0x80 ≤ (0x80#8).toNat := by decide
theorem test_witness_BadAccess :
    let s := { halted with schedule := [.host], script := [.narrow true 0x04#8] }
    let u := { halted with schedule := [.host], script := [.narrow false 0x08#8] }
    (s.schedule = .host :: [] ∧ s.script = .narrow true 0x04#8 :: []) ∧
    u.schedule = .host :: [] ∧ u.script = .narrow false 0x08#8 :: [] := by decide
theorem test_witness_Abort_Restart :
    (hunting []).phase = .hunt ∧ (collecting (hdrOf 96#32 2#32 2#32) [1]).phase = .payload ∧ (emitting 1).phase = .emit ∧
    halted.phase = .halt := by decide
theorem test_witness_IllegalCommand : 4 < (5#32).toNat := by decide
theorem test_witness_StepKeepsTheInvariant :
    StateInv (fed [0#8] (collecting (hdrOf 96#32 2#32 2#32) (s8.take 55))) ∧
    ∃ t, step (fed [0#8] (collecting (hdrOf 96#32 2#32 2#32) (s8.take 55))) = .next t ∧ t.phase = .emit :=
  ⟨by decide, _, rfl, by decide⟩
theorem test_witness_StepRuns_source :
    let s := fed [0xAA#8] (hunting [])
    let u := fed [0xAA#8] (collecting (hdrOf 96#32 2#32 2#32) [1])
    (s.schedule = [.source] ∧ s.source = [0xAA#8] ∧ enabled s = true ∧ s.phase = .hunt) ∧
    (u.schedule = [.source] ∧ u.source = [0xAA#8] ∧ enabled u = true ∧ u.phase = .payload) ∧
    fetch s = some { format := .inPort .hunt, bytes := [0xAA#8] } ∧
    (scheduled .source State.reset).source = [] := by decide
theorem test_witness_StepRuns_others :
    (scheduled .sink (emitting 0)).phase = .emit ∧ (scheduled .sink halted).phase ≠ .emit ∧
    (accessing (.read 0x80#8) halted).script = [.access (.read 0x80#8)] ∧
    (accessing (.write 0x00#8 1#32) halted).script = [.access (.write 0x00#8 1#32)] ∧
    (scheduled .host halted).script = [] ∧ (scheduled .reset halted).schedule = [.reset] ∧ halted.schedule = [] := by decide
theorem test_witness_OnlyTheHostConfigures :
    let s := accessing (.write 0x04#8 3#32) halted
    fetch s = some { format := .hostWrite, bytes := [0x04, 3, 0, 0, 0] } ∧
    decode .hostWrite [0x04, 3, 0, 0, 0] = .ok .clearStats ∧ Instr.clearStats ≠ .reset ∧
    (∀ d, Instr.clearStats ≠ .ctrlWrite d) ∧ (∀ d, Instr.clearStats ≠ .irqEnWrite d) ∧
    (∀ d, Instr.clearStats ≠ .resyncLimitWrite d) ∧ (∀ d, Instr.clearStats ≠ .cycleIdWrite d) ∧ ∃ t, step s = .next t :=
  ⟨by decide, rfl, by decide, nofun, nofun, nofun, nofun, _, rfl⟩
theorem test_witness_EventsAreSticky :
    pending (accessing (.write 0x0C#8 0x10#32) halted) .desync = true ∧
    ∃ t, step (accessing (.write 0x0C#8 0x10#32) halted) = .next t ∧ pending t .desync = false := ⟨by decide, _, rfl, by decide⟩
theorem test_witness_DatasetOnlyGrows :
    ∃ t, step (scheduled .sink (emitting 0)) = .next t ∧ t.dataset ≠ (scheduled .sink (emitting 0)).dataset :=
  ⟨_, rfl, by decide⟩
theorem test_witness_InputTakesBytes :
    ∃ t, step (fed [0xAA#8] (hunting [])) = .next t ∧ t.source = [] := ⟨_, rfl, by decide⟩
theorem test_witness_DisabledInput :
    let s := scheduled .sink { emitting 1 with ctrl := 0#2 }
    enabled s = false ∧ s.schedule = .sink :: [] ∧ Turn.sink ≠ .host ∧ Turn.sink ≠ .reset ∧ ∃ t, step s = .next t :=
  ⟨by decide, rfl, by decide, by decide, _, rfl⟩
theorem test_witness_DiagnosticsStable_emit :
    let s := scheduled .sink (emitting 1)
    s.phase = .emit ∧ (∃ t, step s = .next t) ∧
    ∀ w, fetch s = some w → decode w.format w.bytes ≠ .ok .softReset ∧ decode w.format w.bytes ≠ .ok .reset :=
  ⟨rfl, ⟨_, rfl⟩, by rintro w ⟨⟩; exact ⟨nofun, nofun⟩⟩
/-- ABORT in HALT. -/
theorem test_witness_DiagnosticsStable_halt :
    let s := accessing (.write 0x04#8 1#32) halted
    s.phase = .halt ∧ (∃ t, step s = .next t) ∧
    ∀ w, fetch s = some w → decode w.format w.bytes ≠ .ok .softReset ∧ decode w.format w.bytes ≠ .ok .reset :=
  ⟨rfl, ⟨_, rfl⟩, by rintro w ⟨⟩; exact ⟨nofun, nofun⟩⟩
/-- The widest parameters of R7. -/
theorem test_witness_ResetMeets : Params.legal { payloadMax := 2 ^ 32 - 41, maxObj := 2 ^ 32 - 1 } := by decide
theorem test_witness_EndOfRun : runEnded halted ∧ runEnded (hunting [1, 2]) := by decide

end Sys2Proof.Tests
end

section
/-! PROOF. What one step does, agent by agent (spec R11, R14 to R18, R44, R85): the transaction of a turn, what the transfer
takes from its agent, and the turns in which nothing is transferred. -/

namespace Sys2Proof.Machine

variable {s : State} {ts : List Turn}

/-! ### The step, by what the scheduled port carries -/

theorem fetch_of_schedule {t : Turn} (hs : s.schedule = t :: ts) : fetch s = fetchTurn s t := by
  simp [fetch, hs]

theorem fetch_of_schedule_nil (hs : s.schedule = []) : fetch s = none := by simp [fetch, hs]

/-- A decoded transaction is run in the state that its transfer leaves. -/
theorem step_of_decode {w : PortWord} {i : Instr} (hw : fetch s = some w) (hi : decode w.format w.bytes = .ok i) :
    step s = exec i (consume s) := by
  simp [step, hw, hi]

theorem step_of_fetch_none (h : fetch s = none) : step s = .next (passTurn s) := by simp [step, h]

/-! ### What a transfer takes from its agent -/

theorem consume_of_source {b : Byte} {bs : List Byte} (hs : s.schedule = .source :: ts) (hb : s.source = b :: bs) :
    consume s = { s with schedule := ts, source := bs } := by
  simp [consume, hs, hb]

theorem consume_of_host {op : HostOp} {ops : List HostOp} (hs : s.schedule = .host :: ts) (ho : s.script = op :: ops) :
    consume s = { s with schedule := ts, script := ops } := by
  simp [consume, hs, ho]

theorem consume_of_sink (hs : s.schedule = .sink :: ts) : consume s = { s with schedule := ts } := by
  simp [consume, hs]

theorem consume_of_reset (hs : s.schedule = .reset :: ts) : consume s = { s with schedule := ts } := by
  simp [consume, hs]

/-! ### What a turn without a transfer leaves -/

theorem passTurn_of_schedule_nil (hs : s.schedule = []) : passTurn s = s := by
  simp only [passTurn, hs, List.tail_nil]
  rw [← hs]

/-- Only a narrow access of the Host (R50) makes an untransferred turn more than the end of that turn. -/
theorem passTurn_of_ne_host {t : Turn} (hs : s.schedule = t :: ts) (ht : t ≠ .host) :
    passTurn s = { s with schedule := ts } := by
  cases t with
  | host => exact absurd rfl ht
  | source => simp [passTurn, hs]
  | sink => simp [passTurn, hs]
  | reset => simp [passTurn, hs]

theorem passTurn_of_host_idle (hs : s.schedule = .host :: ts) (ho : s.script = []) :
    passTurn s = { s with schedule := ts } := by
  simp [passTurn, hs, ho]

/-! ### The transaction of each agent's turn -/

/-- The Source transfers the byte it offers, if the input port is ready (R15, R85). -/
theorem fetch_of_source {b : Byte} {bs : List Byte} (hs : s.schedule = .source :: ts) (hb : s.source = b :: bs) :
    fetch s = if inReady s then some { format := .inPort s.phase, bytes := [b] } else none := by
  simp [fetch_of_schedule hs, fetchTurn, hb]

theorem fetch_of_source_nil (hs : s.schedule = .source :: ts) (hb : s.source = []) : fetch s = none := by
  simp [fetch_of_schedule hs, fetchTurn, hb]

/-- The Sink takes a row, if the output port has one (R16). -/
theorem fetch_of_sink (hs : s.schedule = .sink :: ts) :
    fetch s = if outValid s then some { format := .outPort, bytes := [] } else none := by
  simp [fetch_of_schedule hs, fetchTurn]

theorem fetch_of_host_access {x : Access} {ops : List HostOp} (hs : s.schedule = .host :: ts)
    (ho : s.script = .access x :: ops) : fetch s = some { format := accessFormat x, bytes := accessBytes x } := by
  simp [fetch_of_schedule hs, fetchTurn, ho]

theorem fetch_of_host_idle (hs : s.schedule = .host :: ts) (ho : s.script = []) : fetch s = none := by
  simp [fetch_of_schedule hs, fetchTurn, ho]

theorem inReady_of_hunt (he : enabled s = true) (hp : s.phase = .hunt) : inReady s = true := by simp [inReady, he, hp]

theorem inReady_of_payload (he : enabled s = true) (hp : s.phase = .payload) : inReady s = true := by
  simp [inReady, he, hp]

/-! ### The step of each agent -/

theorem step_source_hunt {b : Byte} {bs : List Byte} (hs : s.schedule = .source :: ts) (hb : s.source = b :: bs)
    (he : enabled s = true) (hp : s.phase = .hunt) :
    step s = exec (.byteInHunt b) { s with schedule := ts, source := bs } := by
  have hw : fetch s = some { format := .inPort .hunt, bytes := [b] } := by
    simp [fetch_of_source hs hb, inReady_of_hunt he hp, hp]
  rw [step_of_decode hw rfl, consume_of_source hs hb, byteAt_cons_zero]

theorem step_source_payload {b : Byte} {bs : List Byte} (hs : s.schedule = .source :: ts) (hb : s.source = b :: bs)
    (he : enabled s = true) (hp : s.phase = .payload) :
    step s = exec (.byteInPayload b) { s with schedule := ts, source := bs } := by
  have hw : fetch s = some { format := .inPort .payload, bytes := [b] } := by
    simp [fetch_of_source hs hb, inReady_of_payload he hp, hp]
  rw [step_of_decode hw rfl, consume_of_source hs hb, byteAt_cons_zero]

theorem step_source_nil (hs : s.schedule = .source :: ts) (hb : s.source = []) :
    step s = .next { s with schedule := ts } := by
  rw [step_of_fetch_none (fetch_of_source_nil hs hb), passTurn_of_ne_host hs (by decide)]

theorem step_sink_emit (hs : s.schedule = .sink :: ts) (hp : s.phase = .emit) :
    step s = exec .rowOut { s with schedule := ts } := by
  have hw : fetch s = some { format := .outPort, bytes := [] } := by simp [fetch_of_sink hs, outValid, hp]
  rw [step_of_decode hw rfl, consume_of_sink hs]

theorem step_sink_not_emit (hs : s.schedule = .sink :: ts) (hp : s.phase ≠ .emit) :
    step s = .next { s with schedule := ts } := by
  have hw : fetch s = none := by simp [fetch_of_sink hs, outValid, hp]
  rw [step_of_fetch_none hw, passTurn_of_ne_host hs (by decide)]

/-- An access runs what its address and data select, read or write (R17). -/
theorem step_host_access {x : Access} {ops : List HostOp} (hs : s.schedule = .host :: ts)
    (ho : s.script = .access x :: ops) : step s = exec (accessInstr x) { s with schedule := ts, script := ops } := by
  rw [step_of_decode (fetch_of_host_access hs ho) (decode_access x), consume_of_host hs ho]

theorem step_host_idle (hs : s.schedule = .host :: ts) (ho : s.script = []) :
    step s = .next { s with schedule := ts } := by
  rw [step_of_fetch_none (fetch_of_host_idle hs ho), passTurn_of_host_idle hs ho]

theorem step_reset (hs : s.schedule = .reset :: ts) : step s = exec .reset { s with schedule := ts } := by
  have hw : fetch s = some { format := .resetPin, bytes := [] } := fetch_of_schedule hs
  rw [step_of_decode hw rfl, consume_of_reset hs]

theorem step_unscheduled (hs : s.schedule = []) : step s = .next s := by
  rw [step_of_fetch_none (fetch_of_schedule_nil hs), passTurn_of_schedule_nil hs]

/-- Settles O53: one lemma for each agent's turn, each by way of the turn's transaction and what the transfer takes. -/
theorem stepRunsTheScheduledTransaction : Obligations.StepRunsTheScheduledTransaction :=
  ⟨fun _ _ _ hw hi => step_of_decode hw hi,
   fun _ _ _ _ hs hb he => ⟨step_source_hunt hs hb he, step_source_payload hs hb he⟩,
   fun _ _ hs hb => step_source_nil hs hb,
   fun _ _ hs => ⟨step_sink_emit hs, step_sink_not_emit hs⟩,
   fun _ _ _ hs => ⟨fun _ ho => step_host_access hs ho, fun _ _ ho => step_host_access hs ho, step_host_idle hs⟩,
   fun _ _ hs => step_reset hs,
   fun _ hs => step_unscheduled hs⟩

end Sys2Proof.Machine
end

section
/-! PROOF. Decoder and encoder are inverse to each other (spec R26, R47, R50, R51, R59 to R66, R72, R73): first the byte order,
then the TLV header, the CMD word, the host access and the window, each read from and written to its bytes. -/

namespace Sys2Proof

/-! ### Byte order -/

/-- The bytes of the word at an offset are the bytes at that offset (R47, R76). -/
theorem bytes32_le32 (s : List Byte) (o : Nat) :
    bytes32 (le32 s o) = [byteAt s o, byteAt s (o + 1), byteAt s (o + 2), byteAt s (o + 3)] := by
  have hbyte (a b c d : Byte) :
      (d ++ c ++ b ++ a).extractLsb' 0 8 = a ∧ (d ++ c ++ b ++ a).extractLsb' 8 8 = b ∧
      (d ++ c ++ b ++ a).extractLsb' 16 8 = c ∧ (d ++ c ++ b ++ a).extractLsb' 24 8 = d := by
    refine ⟨?_, ?_, ?_, ?_⟩ <;> ext i hi <;>
      simp only [BitVec.getElem_extractLsb', BitVec.getLsbD_append] <;> grind
  obtain ⟨h0, h1, h2, h3⟩ := hbyte (byteAt s o) (byteAt s (o + 1)) (byteAt s (o + 2)) (byteAt s (o + 3))
  simp only [bytes32, le32, h0, h1, h2, h3]

/-- Where the word lies within the sequence, they are a stretch of it. -/
theorem bytes32_le32_eq_take_drop {s : List Byte} {o : Nat} (h : o + 4 ≤ s.length) :
    bytes32 (le32 s o) = (s.drop o).take 4 := by
  rw [bytes32_le32, byteAt_of_lt (by omega), byteAt_of_lt (by omega), byteAt_of_lt (by omega), byteAt_of_lt (by omega),
    List.drop_eq_getElem_cons (by omega : o < s.length), List.drop_eq_getElem_cons (by omega : o + 1 < s.length),
    List.drop_eq_getElem_cons (by omega : o + 1 + 1 < s.length),
    List.drop_eq_getElem_cons (by omega : o + 1 + 1 + 1 < s.length)]
  rfl

theorem le32_bytes32_self (w : Word) : le32 (bytes32 w) 0 = w := le32_bytes32 w []

/-- A word behind another one is read at its own offset. -/
theorem le32_bytes32_append_add {w : Word} {t : List Byte} {o : Nat} (h : o + 4 ≤ t.length) :
    le32 (bytes32 w ++ t) (o + 4) = le32 t o := by
  simpa [Nat.add_comm] using le32_append_right (bytes32 w) t o h

/-- The second of two words. -/
theorem le32_bytes32_append_bytes32 (v w : Word) : le32 (bytes32 v ++ bytes32 w) 4 = w :=
  (le32_bytes32_append_add (o := 0) (by simp)).trans (le32_bytes32_self w)

theorem le32_bytes64_append_add {w : DWord} {t : List Byte} {o : Nat} (h : o + 4 ≤ t.length) :
    le32 (bytes64 w ++ t) (o + 8) = le32 t o := by
  simpa [Nat.add_comm] using le32_append_right (bytes64 w) t o h

/-- The eight bytes of a 64-bit word read back as the word. -/
theorem le64_bytes64 (w : DWord) (t : List Byte) : le64 (bytes64 w ++ t) 0 = w := by
  have hlow : le32 (bytes64 w ++ t) 0 = w.extractLsb' 0 32 := by simp [bytes64, le32_bytes32]
  have hhigh : le32 (bytes64 w ++ t) 4 = w.extractLsb' 32 32 := by
    simp [bytes64, le32_bytes32, le32_bytes32_append_add (o := 0)]
  simp only [le64, Nat.zero_add, hlow, hhigh]
  ext i hi
  simp only [BitVec.getElem_append, BitVec.getElem_extractLsb']
  grind

theorem le64_bytes64_self (w : DWord) : le64 (bytes64 w) 0 = w := by simpa using le64_bytes64 w []

/-! ### The TLV header (R61, R64, R66) -/

theorem decode_tlvHeader (t len : Word) :
    decode .tlvHeader (bytes32 t ++ bytes32 len) = .ok (decodeTlv t len).toInstr := by
  simp [decode, ofLength, le32_bytes32, le32_bytes32_append_bytes32]

/-- The five ranges of a TLV header, in the decoder's order of precedence (R64, R66). -/
theorem decodeTlv_cases (t len : Word) :
    (10000 < len.toNat ∧ decodeTlv t len = .invalidLen t len) ∨
    (len.toNat ≤ 10000 ∧ 20 < t.toNat ∧ decodeTlv t len = .invalid t len) ∨
    (len.toNat ≤ 10000 ∧ t = 1#32 ∧ decodeTlv t len = .posvel len) ∨
    (len.toNat ≤ 10000 ∧ t = 7#32 ∧ decodeTlv t len = .signal len) ∨
    (len.toNat ≤ 10000 ∧ t.toNat ≤ 20 ∧ t.toNat ≠ 1 ∧ t.toNat ≠ 7 ∧ decodeTlv t len = .skip t len) := by
  unfold decodeTlv
  split_ifs with hlen htype hpos hsig
  · exact .inl ⟨hlen, rfl⟩
  all_goals have hlen' := Nat.le_of_not_lt hlen
  · exact .inr (.inl ⟨hlen', htype, rfl⟩)
  · exact .inr (.inr (.inl ⟨hlen', BitVec.eq_of_toNat_eq hpos, rfl⟩))
  · exact .inr (.inr (.inr (.inl ⟨hlen', BitVec.eq_of_toNat_eq hsig, rfl⟩)))
  · exact .inr (.inr (.inr (.inr ⟨hlen', Nat.le_of_not_lt htype, hpos, hsig, rfl⟩)))

theorem decodeTlv_wellFormed (t len : Word) : (decodeTlv t len).toInstr.wellFormed = true := by
  rcases decodeTlv_cases t len with ⟨hl, h⟩ | ⟨hl, ht, h⟩ | ⟨hl, -, h⟩ | ⟨hl, -, h⟩ | ⟨hl, ht, h1, h7, h⟩ <;>
    simp [TlvOp.toInstr, Instr.wellFormed, lenInBound, *]

theorem encode_decodeTlv (t len : Word) :
    encode (decodeTlv t len).toInstr = some (.tlvHeader, bytes32 t ++ bytes32 len) := by
  rcases decodeTlv_cases t len with ⟨-, h⟩ | ⟨-, -, h⟩ | ⟨-, rfl, h⟩ | ⟨-, rfl, h⟩ | ⟨-, -, -, -, h⟩ <;> rw [h] <;> rfl

/-! ### The CMD word (R72, R73) -/

theorem decode_cmdWord (w : Word) : decode .cmdWord (bytes32 w) = .ok (decodeCmd w).toInstr := by
  simp [decode, ofLength, le32_bytes32_self]

theorem decodeCmd_of_gt {w : Word} (h : 4 < w.toNat) : decodeCmd w = .illegal w := by
  unfold decodeCmd
  rw [if_neg (by omega), if_neg (by omega), if_neg (by omega), if_neg (by omega), if_neg (by omega)]

/-- The five commands and the rest (R72, R73). -/
theorem decodeCmd_cases (w : Word) :
    (w = 0#32 ∧ decodeCmd w = .nop) ∨ (w = 1#32 ∧ decodeCmd w = .abort) ∨ (w = 2#32 ∧ decodeCmd w = .restart) ∨
    (w = 3#32 ∧ decodeCmd w = .clearStats) ∨ (w = 4#32 ∧ decodeCmd w = .softReset) ∨
    (4 < w.toNat ∧ decodeCmd w = .illegal w) := by
  by_cases h : 4 < w.toNat
  · exact .inr (.inr (.inr (.inr (.inr ⟨h, decodeCmd_of_gt h⟩))))
  · have hw : w = 0#32 ∨ w = 1#32 ∨ w = 2#32 ∨ w = 3#32 ∨ w = 4#32 := by bv_omega
    rcases hw with rfl | rfl | rfl | rfl | rfl <;> decide

theorem decodeCmd_wellFormed (w : Word) : (decodeCmd w).toInstr.wellFormed = true := by
  rcases decodeCmd_cases w with ⟨-, h⟩ | ⟨-, h⟩ | ⟨-, h⟩ | ⟨-, h⟩ | ⟨-, h⟩ | ⟨hw, h⟩ <;>
    simp [CmdOp.toInstr, Instr.wellFormed, *]

theorem encode_decodeCmd (w : Word) : encode (decodeCmd w).toInstr = some (.cmdWord, bytes32 w) := by
  rcases decodeCmd_cases w with ⟨rfl, h⟩ | ⟨rfl, h⟩ | ⟨rfl, h⟩ | ⟨rfl, h⟩ | ⟨rfl, h⟩ | ⟨-, h⟩ <;> rw [h] <;> rfl

/-! ### The host port (R26, R50, R51) -/

/-- An address is refused exactly where it is not mapped (R50, R51). -/
theorem badAddr_eq_not_mappedAddr (a : Addr) : badAddr a = !mappedAddr a := by
  simp only [badAddr, mappedAddr, Bool.not_and, ← decide_not, Nat.not_lt]

theorem decodeRead_of_mapped {a : Addr} (h : mappedAddr a = true) : decodeRead a = .regRead a := by
  simp [decodeRead, badAddr_eq_not_mappedAddr, h]

/-- An unmapped address is refused, read or written. -/
theorem accessInstr_of_wellFormed_fault {x : Access} (h : Instr.wellFormed (.regAccessFault x) = true) :
    accessInstr x = .regAccessFault x := by
  cases x with
  | read a => simp [accessInstr, decodeRead, badAddr_eq_not_mappedAddr, show (!mappedAddr a) = true from h]
  | write a d => simp [accessInstr, decodeWrite, badAddr_eq_not_mappedAddr, show (!mappedAddr a) = true from h]

theorem decodeRead_wellFormed (a : Addr) : (decodeRead a).wellFormed = true := by
  unfold decodeRead
  split <;> simp_all [Instr.wellFormed, badAddr_eq_not_mappedAddr]

theorem encode_decodeRead (a : Addr) : encode (decodeRead a) = some (.hostRead, [a]) := by
  unfold decodeRead
  split <;> rfl

/-- A host write is refused, or has the row of its register: the six writable ones, or REG_WRITE (R108). -/
theorem decodeWrite_cases (a : Addr) (d : Word) :
    (mappedAddr a = false ∧ decodeWrite a d = .regAccessFault (.write a d)) ∨
    (a = 0x00#8 ∧ decodeWrite a d = .ctrlWrite d) ∨
    (a = 0x04#8 ∧ decodeWrite a d = (decodeCmd d).toInstr) ∨
    (a = 0x0C#8 ∧ decodeWrite a d = .eventsWrite d) ∨
    (a = 0x10#8 ∧ decodeWrite a d = .irqEnWrite d) ∨
    (a = 0x14#8 ∧ decodeWrite a d = .cycleIdWrite d) ∨
    (a = 0x18#8 ∧ decodeWrite a d = .resyncLimitWrite d) ∨
    (Instr.wellFormed (.regWrite a d) = true ∧ decodeWrite a d = .regWrite a d) := by
  unfold decodeWrite
  rw [badAddr_eq_not_mappedAddr]
  split_ifs with hm h0 h4 hC h10 h14 h18
  · exact .inl ⟨by simpa using hm, rfl⟩
  · exact .inr (.inl ⟨BitVec.eq_of_toNat_eq h0, rfl⟩)
  · exact .inr (.inr (.inl ⟨BitVec.eq_of_toNat_eq h4, rfl⟩))
  · exact .inr (.inr (.inr (.inl ⟨BitVec.eq_of_toNat_eq hC, rfl⟩)))
  · exact .inr (.inr (.inr (.inr (.inl ⟨BitVec.eq_of_toNat_eq h10, rfl⟩))))
  · exact .inr (.inr (.inr (.inr (.inr (.inl ⟨BitVec.eq_of_toNat_eq h14, rfl⟩)))))
  · exact .inr (.inr (.inr (.inr (.inr (.inr (.inl ⟨BitVec.eq_of_toNat_eq h18, rfl⟩))))))
  · have hm' : mappedAddr a = true := by simpa using hm
    exact .inr (.inr (.inr (.inr (.inr (.inr (.inr ⟨by simp [Instr.wellFormed, *], rfl⟩))))))

theorem decodeWrite_of_wellFormed {a : Addr} {d : Word} (h : Instr.wellFormed (.regWrite a d) = true) :
    decodeWrite a d = .regWrite a d := by
  simp only [Instr.wellFormed, Bool.and_eq_true, decide_eq_true_eq, List.mem_cons, List.not_mem_nil, or_false,
    not_or] at h
  obtain ⟨hm, h0, h4, hC, h10, h14, h18⟩ := h
  simp [decodeWrite, badAddr_eq_not_mappedAddr, *]

theorem decodeWrite_wellFormed (a : Addr) (d : Word) : (decodeWrite a d).wellFormed = true := by
  rcases decodeWrite_cases a d with
    ⟨hm, h⟩ | ⟨-, h⟩ | ⟨-, h⟩ | ⟨-, h⟩ | ⟨-, h⟩ | ⟨-, h⟩ | ⟨-, h⟩ | ⟨hw, h⟩ <;> rw [h]
  case inl => simp [Instr.wellFormed, hm]
  case inr.inr.inl => exact decodeCmd_wellFormed d
  case inr.inr.inr.inr.inr.inr.inr => exact hw
  all_goals rfl

/-- The word of a host write is its address and data, but for a command, whose word is the data alone. -/
theorem encode_decodeWrite {a : Addr} (d : Word) (ha : a ≠ 0x04#8) :
    encode (decodeWrite a d) = some (.hostWrite, a :: bytes32 d) := by
  rcases decodeWrite_cases a d with
    ⟨-, h⟩ | ⟨rfl, h⟩ | ⟨h4, -⟩ | ⟨rfl, h⟩ | ⟨rfl, h⟩ | ⟨rfl, h⟩ | ⟨rfl, h⟩ | ⟨-, h⟩
  case inr.inr.inl => exact absurd h4 ha
  all_goals rw [h]; rfl

/-! ### The window (R59, R60, R78) -/

theorem isSync_headerBytes (h : Header) : isSync (headerBytes h) = true := by
  simp [isSync, headerBytes, le64_bytes64]

/-- The eight fields read back from the forty bytes of their header (R59). -/
theorem headerAt_headerBytes (h : Header) : headerAt (headerBytes h) = h := by
  simp [headerAt, headerBytes, le32_bytes64_append_add, le32_bytes32_append_add, le32_bytes32,
    le32_bytes32_append_bytes32]

theorem decode_headerBytes (h : Header) : decode .syncWord (headerBytes h) = .ok (.headerLatch h) := by
  simp [decode, decodeWindow, isSync_headerBytes, headerAt_headerBytes, Config.syncLen, Config.hdrLen]

theorem decode_bytes64_of_ne_magic {w : DWord} (h : w ≠ Config.magic) :
    decode .syncWord (bytes64 w) = .ok (.resyncShift w) := by
  simp [decode, decodeWindow, isSync, le64_bytes64_self, h]

theorem decodeWindow_wellFormed {bs : List Byte} {i : Instr} (h : decodeWindow bs = .ok i) : i.wellFormed = true := by
  unfold decodeWindow at h
  split_ifs at h with hlen hsync h40
  · cases h
    rfl
  · cases h
    simpa [isSync, Instr.wellFormed] using hsync

/-! ### The round trips -/

/-- A word of the wrong length is rejected, so what is read has the format's length. -/
theorem ofLength_eq_ok {f : Format} {n : Nat} {bs : List Byte} {i j : Instr} (h : ofLength f n bs i = .ok j) :
    bs.length = n ∧ i = j := by
  unfold ofLength at h
  split_ifs at h with hn
  exact ⟨hn, Except.ok.inj h⟩

/-- Settles O2, operation by operation: the word of each is one of its format's, and that format's reading of it, with the
operands in the operation's range, is the operation. -/
theorem decodeAfterEncode : Obligations.DecodeAfterEncode := by
  intro i f bs hwf henc
  cases i <;> obtain ⟨⟩ := henc
  case headerLatch h => exact decode_headerBytes h
  case resyncShift sync => exact decode_bytes64_of_ne_magic (by simpa [Instr.wellFormed] using hwf)
  case tlvPosvel len | tlvSignal len | tlvSkip t len | tlvInvalid t len | tlvInvalidLen t len =>
    -- the operands' ranges are the conditions of `decodeTlv`'s branches (R64, R66)
    rw [decode_tlvHeader]
    grind [decodeTlv, TlvOp.toInstr, Instr.wellFormed, lenInBound]
  case nop | abort | restart | clearStats | softReset => rw [decode_cmdWord]; rfl
  case cmdIllegal w => rw [decode_cmdWord, decodeCmd_of_gt (by simpa [Instr.wellFormed] using hwf)]; rfl
  case byteInHunt b | byteInPayload b => rfl
  case rowOut | reset => rfl
  case regRead a => exact (decode_access (.read a)).trans (congrArg _ (decodeRead_of_mapped hwf))
  case regWrite a d => exact (decode_access (.write a d)).trans (congrArg _ (decodeWrite_of_wellFormed hwf))
  case regAccessFault acc => exact (decode_access acc).trans (congrArg _ (accessInstr_of_wellFormed_fault hwf))
  case ctrlWrite d | eventsWrite d | irqEnWrite d | cycleIdWrite d | resyncLimitWrite d =>
    exact decode_access (.write _ d)

/-- Settles O3, format by format. -/
theorem encodeAfterDecode : Obligations.EncodeAfterDecode := by
  intro f bs i h
  cases f with
  | syncWord => exact ⟨decodeWindow_wellFormed h, fun hf => absurd rfl hf⟩
  | tlvHeader =>
    obtain ⟨hlen, rfl⟩ := ofLength_eq_ok h
    refine ⟨decodeTlv_wellFormed _ _, fun _ _ => ?_⟩
    rw [encode_decodeTlv, bytes32_le32_eq_take_drop (by omega), bytes32_le32_eq_take_drop (by omega), List.drop_zero,
      List.take_of_length_le (i := 4) (l := bs.drop 4) (by simp [hlen]), List.take_append_drop]
  | cmdWord =>
    obtain ⟨hlen, rfl⟩ := ofLength_eq_ok h
    refine ⟨decodeCmd_wellFormed _, fun _ _ => ?_⟩
    rw [encode_decodeCmd, bytes32_le32_eq_take_drop hlen.ge, List.drop_zero, List.take_of_length_le hlen.le]
  | hostRead =>
    obtain ⟨hlen, rfl⟩ := ofLength_eq_ok h
    obtain ⟨a, rfl⟩ := List.length_eq_one_iff.mp hlen
    exact ⟨decodeRead_wellFormed _, fun _ _ => by rw [encode_decodeRead, byteAt_cons_zero]⟩
  | hostWrite =>
    obtain ⟨hlen, rfl⟩ := ofLength_eq_ok h
    obtain ⟨a, rest, rfl⟩ := List.exists_cons_of_length_eq_add_one hlen
    refine ⟨decodeWrite_wellFormed _ _, fun _ ha => ?_⟩
    rw [encode_decodeWrite _ (ha rfl), bytes32_le32_eq_take_drop hlen.ge, byteAt_cons_zero, List.drop_one, List.tail_cons,
      List.take_of_length_le (Nat.le_of_succ_le_succ hlen.le)]
  | inPort p =>
    cases p with
    | hunt | payload =>
      obtain ⟨hlen, rfl⟩ := ofLength_eq_ok h
      obtain ⟨b, rfl⟩ := List.length_eq_one_iff.mp hlen
      exact ⟨rfl, fun _ _ => by rw [byteAt_cons_zero]; rfl⟩
    | emit | halt => cases h
  | outPort | resetPin =>
    obtain ⟨hlen, rfl⟩ := ofLength_eq_ok h
    obtain rfl := List.length_eq_zero_iff.mp hlen
    exact ⟨rfl, fun _ _ => rfl⟩
  | internal => cases h

/-- Settles O1: each word is written out, and the decoder evaluates on it. -/
theorem writtenWordsDecode : Obligations.WrittenWordsDecode :=
  ⟨rfl, rfl, rfl, rfl, rfl, rfl, rfl, rfl, rfl, rfl, rfl, rfl, rfl, rfl, rfl, rfl, rfl⟩

end Sys2Proof
end

section
/-! PROOF. STATUS is computed from the other state, field by field (spec R29): a field of a word given by its value is that
value's quotient, so each field of STATUS is read off the sum that composes it. -/

namespace Sys2Proof.Machine

variable (s : State)

/-- The field of `n` bits from bit `i` of a word. -/
theorem ofNat_extractLsb' {x i n : Nat} (h : i + n ≤ 32) :
    (BitVec.ofNat 32 x).extractLsb' i n = BitVec.ofNat n (x / 2 ^ i) := by
  refine BitVec.eq_of_getLsbD_eq fun j hj => ?_
  simp [BitVec.getLsbD_extractLsb', BitVec.getLsbD_ofNat, Nat.testBit_div_two_pow, hj, show i + j < 32 by omega,
    Nat.add_comm, -BitVec.getLsbD_eq_getElem]

theorem ofNat_getLsbD_eq_true_iff {x i : Nat} (h : i < 32) :
    (BitVec.ofNat 32 x).getLsbD i = true ↔ x / 2 ^ i % 2 = 1 := by
  rw [BitVec.getLsbD_ofNat, Nat.testBit_eq_decide_div_mod_eq]
  simp [h]

/-- An interrupt is requested where an event is both pending and enabled (R119). -/
theorem irq_eq_true_iff :
    irq s = true ↔ ∃ i, i < 9 ∧ s.events.getLsbD i = true ∧ s.irqEn.getLsbD i = true := by
  have hzero : s.events &&& s.irqEn = 0#9 ↔ ∀ i, i < 9 → ¬(s.events.getLsbD i = true ∧ s.irqEn.getLsbD i = true) := by
    rw [BitVec.eq_of_getLsbD_eq_iff]
    simp
  simp only [irq, decide_eq_true_eq, ne_eq, hzero]
  push Not
  rfl

theorem inReady_eq_true_iff :
    inReady s = true ↔ (s.ctrl.getLsbD 0 = true ∧ (s.phase = .hunt ∨ s.phase = .payload)) := by
  simp [inReady, enabled]

theorem outValid_eq_true_iff : outValid s = true ↔ s.phase = .emit := by simp [outValid]

theorem synced_eq_true_iff : synced s = true ↔ (s.phase = .payload ∨ s.phase = .emit) := by simp [synced]

theorem phaseCode_lt (p : Phase) : phaseCode p < 4 := by cases p <;> decide

/-- STATUS field by field, before the signals are read as what they stand for. -/
theorem statusWord_fields :
    (statusWord s).extractLsb' 0 2 = BitVec.ofNat 2 (phaseCode s.phase) ∧
    ((statusWord s).getLsbD 2 = true ↔ synced s = true) ∧
    ((statusWord s).getLsbD 3 = true ↔ irq s = true) ∧
    ((statusWord s).getLsbD 4 = true ↔ inReady s = true) ∧
    ((statusWord s).getLsbD 5 = true ↔ outValid s = true) ∧
    (statusWord s).extractLsb' 6 2 = 0#2 ∧
    (statusWord s).extractLsb' 8 6 = BitVec.ofNat 6 s.hb.length ∧
    (statusWord s).extractLsb' 14 18 = 0#18 := by
  have hp := phaseCode_lt s.phase
  have bit (b : Bool) : b = true ↔ b.toNat = 1 := by cases b <;> decide
  have hs := (synced s).toNat_lt
  have hi := (irq s).toNat_lt
  have hr := (inReady s).toNat_lt
  have ho := (outValid s).toNat_lt
  have hh : s.hb.length % 64 < 64 := Nat.mod_lt _ (by decide)
  unfold statusWord
  simp only [ofNat_getLsbD_eq_true_iff (show 2 < 32 by decide), ofNat_getLsbD_eq_true_iff (show 3 < 32 by decide),
    ofNat_getLsbD_eq_true_iff (show 4 < 32 by decide), ofNat_getLsbD_eq_true_iff (show 5 < 32 by decide), bit]
  refine ⟨?_, by omega, by omega, by omega, by omega, ?_, ?_, ?_⟩ <;> rw [ofNat_extractLsb' (by decide)]
  all_goals
    refine BitVec.eq_of_toNat_eq ?_
    simp only [BitVec.toNat_ofNat]
    omega

/-- Settles O35. -/
theorem statusShowsEveryField : Obligations.StatusShowsEveryField := by
  intro s
  obtain ⟨hphase, hsynced, hirq, hin, hout, h6, hfill, h14⟩ := statusWord_fields s
  exact ⟨hphase.trans (by cases s.phase <;> rfl), hsynced.trans (synced_eq_true_iff s), hirq.trans (irq_eq_true_iff s),
    hin.trans (inReady_eq_true_iff s), hout.trans (outValid_eq_true_iff s), h6, hfill, h14⟩

end Sys2Proof.Machine
end

section
/-! PROOF. Everything one step can do (spec R11, R14 to R18, R43, R107, R108): which operation it runs and what the state after
it is, so that a statement about every step is one case split over `StepEffect`. -/

namespace Sys2Proof.Machine

/-! ### The host's accesses -/

/-- What the operation of a host access does: only an answer (a read, a refused access, a write to a read-only register), the
write of one register, or a command. -/
inductive HostEffect (s : State) : Instr → State → Prop where
  | answer (i : Instr) (r : HostResp) : HostEffect s i { s with hostResp := r }
  | ctrl (d : Word) : HostEffect s (.ctrlWrite d) (answerWrite false (writeCtrl d s))
  | events (d : Word) : HostEffect s (.eventsWrite d) (answerWrite false (writeEvents d s))
  | irqEn (d : Word) : HostEffect s (.irqEnWrite d) (answerWrite false (writeIrqEn d s))
  | cycleId (d : Word) : HostEffect s (.cycleIdWrite d) (answerWrite false (writeCycleId d s))
  | resyncLimit (d : Word) : HostEffect s (.resyncLimitWrite d) (answerWrite false (writeResyncLimit d s))
  | command (c : CmdOp) : HostEffect s c.toInstr (answerWrite false (runCommand c s))

theorem exec_toInstr (c : CmdOp) (s : State) : exec c.toInstr s = .next (answerWrite false (runCommand c s)) := by
  cases c <;> rfl

theorem writeReg_of_readOnly {r : Reg} (h : r.access = .ro) (d : Word) (s : State) : writeReg r d s = s := by
  cases r <;> simp_all [Reg.access, writeReg]

/-- The addresses REG_WRITE is left with are the mapped ones of the read-only registers (R26, R108). -/
theorem regAt_readOnly_of_wellFormed {a : Addr} {d : Word} (h : Instr.wellFormed (.regWrite a d) = true) :
    ∃ r, regAt a = some r ∧ r.access = .ro := by
  have hall : ∀ a : Addr, Instr.wellFormed (.regWrite a 0#32) = true → (regAt a).map Reg.access = some .ro := by decide
  simpa using hall a h

theorem exec_regWrite_of_wellFormed {a : Addr} {d : Word} (s : State)
    (h : Instr.wellFormed (.regWrite a d) = true) : exec (.regWrite a d) s = .next (answerWrite false s) := by
  obtain ⟨r, hr, hro⟩ := regAt_readOnly_of_wellFormed h
  simp [exec, execRegWrite, hr, writeReg_of_readOnly hro]

theorem hostEffect_decodeRead (a : Addr) (s : State) :
    ∃ t, exec (decodeRead a) s = .next t ∧ HostEffect s (decodeRead a) t := by
  unfold decodeRead
  split <;> exact ⟨_, rfl, .answer _ _⟩

theorem hostEffect_decodeWrite (a : Addr) (d : Word) (s : State) :
    ∃ t, exec (decodeWrite a d) s = .next t ∧ HostEffect s (decodeWrite a d) t := by
  rcases decodeWrite_cases a d with
    ⟨-, h⟩ | ⟨-, h⟩ | ⟨-, h⟩ | ⟨-, h⟩ | ⟨-, h⟩ | ⟨-, h⟩ | ⟨-, h⟩ | ⟨hw, h⟩ <;> rw [h]
  · exact ⟨_, rfl, .answer _ _⟩
  · exact ⟨_, rfl, .ctrl d⟩
  · exact ⟨_, exec_toInstr _ s, .command _⟩
  · exact ⟨_, rfl, .events d⟩
  · exact ⟨_, rfl, .irqEn d⟩
  · exact ⟨_, rfl, .cycleId d⟩
  · exact ⟨_, rfl, .resyncLimit d⟩
  · exact ⟨_, exec_regWrite_of_wellFormed s hw, .answer _ _⟩

theorem hostEffect_accessInstr (x : Access) (s : State) :
    ∃ t, exec (accessInstr x) s = .next t ∧ HostEffect s (accessInstr x) t := by
  cases x with
  | read a => exact hostEffect_decodeRead a s
  | write a d => exact hostEffect_decodeWrite a d s

/-! ### The port transfers -/

theorem exec_byteInHunt {b : Byte} {s : State} (hen : enabled s = true) (hph : s.phase = .hunt) :
    exec (.byteInHunt b) s = .next (takeHeaderByte b s) := by
  simp [exec, execByteInHunt, hen, hph]

theorem exec_byteInPayload {b : Byte} {s : State} (hen : enabled s = true) (hph : s.phase = .payload) :
    exec (.byteInPayload b) s = .next (takePayloadByte b s) := by
  simp [exec, execByteInPayload, hen, hph]

theorem exec_rowOut {s : State} (hph : s.phase = .emit) : exec .rowOut s = .next (transferRow s) := by
  simp [exec, execRowOut, outValid, hph]

/-! ### The step -/

/-- What a step does, with the operation it runs, if any. -/
inductive StepEffect (s : State) : Option Instr → State → Prop where
  | idle (ts : List Turn) (ops : List HostOp) (r : HostResp) :
      StepEffect s none { s with schedule := ts, script := ops, hostResp := r }
  | headerByte (b : Byte) (bs : List Byte) (ts : List Turn) (hts : s.schedule = .source :: ts) (hbs : s.source = b :: bs)
      (hen : enabled s = true) (hph : s.phase = .hunt) :
      StepEffect s (some (.byteInHunt b)) (takeHeaderByte b { s with schedule := ts, source := bs })
  | payloadByte (b : Byte) (bs : List Byte) (ts : List Turn) (hts : s.schedule = .source :: ts)
      (hbs : s.source = b :: bs) (hen : enabled s = true) (hph : s.phase = .payload) :
      StepEffect s (some (.byteInPayload b)) (takePayloadByte b { s with schedule := ts, source := bs })
  | row (ts : List Turn) (hph : s.phase = .emit) : StepEffect s (some .rowOut) (transferRow { s with schedule := ts })
  | host (ts : List Turn) (ops : List HostOp) {i : Instr} {t : State}
      (h : HostEffect { s with schedule := ts, script := ops } i t) : StepEffect s (some i) t
  | reset (ts : List Turn) :
      StepEffect s (some .reset) (resetConfiguration (resetDatapath { s with schedule := ts }))

/-- A turn without a transfer changes at most the schedule, the script and the host port's answer (R50, R85). -/
theorem passTurn_eq (s : State) :
    ∃ ts ops r, passTurn s = { s with schedule := ts, script := ops, hostResp := r } := by
  unfold passTurn
  split
  · exact ⟨_, _, _, rfl⟩
  · exact ⟨_, s.script, s.hostResp, rfl⟩

theorem stepEffect_of_fetch_none {s t : State} (hw : fetch s = none) (h : step s = .next t) : StepEffect s none t := by
  obtain ⟨ts, ops, r, hpass⟩ := passTurn_eq s
  rw [step_of_fetch_none hw, hpass] at h
  cases h
  exact .idle ts ops r

theorem stepEffect_of_decode {s t : State} {w : PortWord} {i : Instr} (hw : fetch s = some w)
    (hi : decode w.format w.bytes = .ok i) (h : step s = .next t) : StepEffect s (some i) t := by
  obtain ⟨a, ts, hts, ha⟩ := fetch_turn hw
  rw [step_of_decode hw hi] at h
  rcases fetchTurn_cases ha with
    ⟨b, bs, rfl, hbs, hen, hph, hd⟩ | ⟨b, bs, rfl, hbs, hen, hph, hd⟩ | ⟨rfl, hph, hd⟩ | ⟨x, ops, rfl, hops, hd⟩ | ⟨rfl, hd⟩ <;>
    obtain rfl := Except.ok.inj (hi.symm.trans hd)
  · rw [consume_of_source hts hbs, exec_byteInHunt (by exact hen) (by exact hph)] at h
    cases h
    exact .headerByte b bs ts hts hbs hen hph
  · rw [consume_of_source hts hbs, exec_byteInPayload (by exact hen) (by exact hph)] at h
    cases h
    exact .payloadByte b bs ts hts hbs hen hph
  · rw [consume_of_sink hts, exec_rowOut (by exact hph)] at h
    cases h
    exact .row ts hph
  · rw [consume_of_host hts hops] at h
    obtain ⟨u, hu, heff⟩ := hostEffect_accessInstr x { s with schedule := ts, script := ops }
    cases hu.symm.trans h
    exact .host ts ops heff
  · rw [consume_of_reset hts] at h
    cases h
    exact .reset ts

/-- Every step does one of these things. -/
theorem step_effect {s t : State} (h : step s = .next t) : ∃ o, StepEffect s o t := by
  cases hw : fetch s with
  | none => exact ⟨_, stepEffect_of_fetch_none hw h⟩
  | some w =>
    obtain ⟨i, hi⟩ := Laws.fetch_decodes hw
    exact ⟨_, stepEffect_of_decode hw hi h⟩

end Sys2Proof.Machine
end

section
/-! PROOF. What the packet operations never touch (spec R41, R43, R99, R103, R130): the configuration registers but CYCLE_ID,
the parameters and the offered bytes; a pending event stays pending, and CYCLE_ID moves only at a commit with AUTOINC. -/

namespace Sys2Proof.Machine

variable {s t : State}

/-- The configuration of `s` is that of `t`, but for CYCLE_ID's step at a commit with AUTOINC (R41, R103). -/
structure KeepsConfiguration (s t : State) : Prop where
  params : t.params = s.params
  ctrl : t.ctrl = s.ctrl
  irqEn : t.irqEn = s.irqEn
  resyncLimit : t.resyncLimit = s.resyncLimit
  source : t.source = s.source
  cycleId : t.cycleId = s.cycleId ∨
    (autoInc s = true ∧ t.cycleId = s.cycleId + 1#32 ∧ t.frameCnt = s.frameCnt + 1#32)

/-- Besides, no pending event is cleared (R30). -/
structure PacketFrame (s t : State) : Prop extends KeepsConfiguration s t where
  pending : ∀ e, pending s e = true → pending t e = true

theorem KeepsConfiguration.refl (s : State) : KeepsConfiguration s s := ⟨rfl, rfl, rfl, rfl, rfl, .inl rfl⟩

theorem PacketFrame.refl (s : State) : PacketFrame s s := ⟨.refl s, fun _ => id⟩

/-! ### Events -/

theorem pending_congr (h : t.events = s.events) (e : Event) : pending t e = pending s e := by simp [pending, h]

theorem pending_raise_of_pending {e' : Event} (e : Event) (hp : pending s e = true) : pending (raise e' s) e = true := by
  rw [pending_raise, hp, Bool.true_or]

theorem pending_raiseIf_of_pending {c : Bool} {e' : Event} (e : Event) (hp : pending s e = true) :
    pending (raiseIf c e' s) e = true := by
  cases c
  · exact hp
  · exact pending_raise_of_pending e hp

/-! ### The operations, innermost first -/

theorem wrap32_toNat_succ (w : Word) : wrap32 (w.toNat + 1) = w + 1#32 := by
  simp [wrap32, BitVec.ofNat_add]

theorem packetFrame_raise (e : Event) (s : State) : PacketFrame s (raise e s) :=
  { KeepsConfiguration.refl s with pending := pending_raise_of_pending }

theorem packetFrame_enterDiscard (e : Event) (code : BitVec 7) (s : State) : PacketFrame s (enterDiscard e code s) :=
  { packetFrame_raise e s with }

theorem packetFrame_applyDiscard (i t len : Word) (s : State) : PacketFrame s (applyDiscard i t len s) :=
  { packetFrame_enterDiscard .tlvBad outcomeTlvBad s with }

theorem packetFrame_commitRecord (os : List ObjRec) (gs : List SigRec) (sh ov : Bool) (s : State) :
    PacketFrame s (commitRecord os gs sh ov s) where
  params := commitRecord_params ..
  ctrl := commitRecord_ctrl ..
  irqEn := commitRecord_irqEn ..
  resyncLimit := commitRecord_resyncLimit ..
  source := commitRecord_source ..
  cycleId := by
    cases h : autoInc s
    · simp [h]
    · simp [h, wrap32_toNat_succ]
  pending e hp := by
    rw [pending_congr (commitRecord_events ..)]
    exact pending_raiseIf_of_pending e (pending_raiseIf_of_pending e (pending_raiseIf_of_pending e
      (pending_raise_of_pending e hp)))

theorem packetFrame_applyCommit (os : List ObjRec) (gs : List SigRec) (sh ov : Bool) (s : State) :
    PacketFrame s (applyCommit os gs sh ov s) := by
  rcases applyCommit_cases os gs sh ov s with ⟨-, h⟩ | ⟨-, h⟩ <;> rw [h] <;>
    exact { packetFrame_commitRecord os gs sh ov s with }

/-- A complete packet is discarded, or commits what the loop staged (R88). -/
theorem finishPacket_cases (s : State) :
    (∃ i t len, finishPacket s = { applyDiscard i t len s with loop := LoopVars.start }) ∨
    finishPacket s =
      { applyCommit (tlvLoop (loopEnv s)).objs (tlvLoop (loopEnv s)).sigs (tlvLoop (loopEnv s)).short
          (tlvLoop (loopEnv s)).ovf s with loop := LoopVars.start } := by
  simp only [finishPacket, applyExit]
  split
  · exact .inl ⟨_, _, _, rfl⟩
  · exact .inr rfl
  · exact .inr rfl

theorem packetFrame_finishPacket (s : State) : PacketFrame s (finishPacket s) := by
  rcases finishPacket_cases s with ⟨i, t, len, h⟩ | h <;> rw [h]
  · exact { packetFrame_applyDiscard i t len s with }
  · exact { packetFrame_applyCommit _ _ _ _ s with }

/-- An accepted header with no payload is a complete packet, any other has its payload collected (R84). -/
theorem acceptHeader_cases (s : State) :
    (s.hdr.pktLen.toNat = 40 ∧ acceptHeader s = finishPacket { s with pb := [] }) ∨
    (s.hdr.pktLen.toNat ≠ 40 ∧ acceptHeader s = { s with pb := [], phase := .payload }) := by
  by_cases h : s.hdr.pktLen.toNat = 40
  · exact .inl ⟨h, by simp only [acceptHeader, Config.hdrLen, if_pos h]⟩
  · exact .inr ⟨h, by simp only [acceptHeader, Config.hdrLen, if_neg h]⟩

theorem packetFrame_acceptHeader (s : State) : PacketFrame s (acceptHeader s) := by
  rcases acceptHeader_cases s with ⟨-, h⟩ | ⟨-, h⟩ <;> rw [h]
  · exact { packetFrame_finishPacket { s with pb := [] } with }
  · exact { PacketFrame.refl s with }

theorem packetFrame_checkLength (s : State) : PacketFrame s (checkLength s) := by
  rcases checkLength_cases s with ⟨-, h⟩ | ⟨-, h⟩ <;> rw [h]
  · exact packetFrame_enterDiscard .lenBad outcomeLenBad s
  · exact packetFrame_acceptHeader s

theorem packetFrame_latchHeader (h : Header) (s : State) : PacketFrame s (latchHeader h s) :=
  { packetFrame_checkLength { s with hdr := h, hb := [], resyncCnt := 0#32 } with }

/-- The shift raises SYNC_FAIL, and at the cap also DESYNC, and halts (R81, R82). -/
theorem shiftWindow_cases (s : State) :
    ∃ u, u = raise .syncFail { s with hb := s.hb.tail, resyncCnt := sat32 (s.resyncCnt.toNat + 1) } ∧
      (shiftWindow s = u ∨ shiftWindow s = raise .desync { u with phase := .halt }) := by
  refine ⟨_, rfl, ?_⟩
  simp only [shiftWindow, checkCap]
  split
  · exact .inr rfl
  · exact .inl rfl

theorem packetFrame_shiftWindow (s : State) : PacketFrame s (shiftWindow s) := by
  obtain ⟨u, rfl, h | h⟩ := shiftWindow_cases s <;> rw [h]
  · exact { packetFrame_raise .syncFail s with }
  · exact { packetFrame_raise .syncFail s with
      pending := fun e hp => pending_raise_of_pending e (pending_raise_of_pending (s := s) e hp) }

theorem packetFrame_takeHeaderByte (b : Byte) (s : State) : PacketFrame s (takeHeaderByte b s) := by
  rcases takeHeaderByte_cases b s with ⟨-, h⟩ | ⟨-, -, h⟩ | ⟨-, -, h⟩ <;> rw [h]
  · exact { PacketFrame.refl s with }
  · exact { packetFrame_latchHeader _ (pushHb b s) with }
  · exact { packetFrame_shiftWindow (pushHb b s) with }

theorem packetFrame_takePayloadByte (b : Byte) (s : State) : PacketFrame s (takePayloadByte b s) := by
  rcases takePayloadByte_cases b s with ⟨-, h⟩ | ⟨-, h⟩ <;> rw [h]
  · exact { PacketFrame.refl s with }
  · exact { packetFrame_finishPacket (pushPb b s) with }

/-- A row transfer goes on to the next row, or was the last one and ends the emission (R101, R102). -/
theorem transferRow_cases (s : State) :
    ∃ u, u = { s with
        dataset := s.dataset ++ [currentTransfer s], rowCnt := wrap32 (s.rowCnt.toNat + 1), emitIdx := s.emitIdx + 1 } ∧
      ((s.emitIdx + 1 = s.emitN ∧ transferRow s = clearEmission u) ∨ (s.emitIdx + 1 ≠ s.emitN ∧ transferRow s = u)) := by
  refine ⟨_, rfl, ?_⟩
  by_cases h : s.emitIdx + 1 = s.emitN
  · exact .inl ⟨h, by simp only [transferRow, if_pos h]⟩
  · exact .inr ⟨h, by simp only [transferRow, if_neg h]⟩

theorem packetFrame_transferRow (s : State) : PacketFrame s (transferRow s) := by
  obtain ⟨u, rfl, ⟨-, h⟩ | ⟨-, h⟩⟩ := transferRow_cases s <;> rw [h] <;>
    exact { PacketFrame.refl s with }

/-! ### The commands -/

/-- ABORT changes something in three phases only (R113). -/
theorem keepsConfiguration_runCommand (c : CmdOp) (s : State) : KeepsConfiguration s (runCommand c s) := by
  cases c with
  | abort => simp only [runCommand, abortPacket]; split <;> exact { KeepsConfiguration.refl s with }
  | nop | restart | illegal w => exact { KeepsConfiguration.refl s with }
  | clearStats | softReset => exact { KeepsConfiguration.refl s with cycleId := .inl rfl }

theorem pending_runCommand {c : CmdOp} (hc : c ≠ .softReset) (e : Event) (hp : pending s e = true) :
    pending (runCommand c s) e = true := by
  cases c with
  | abort => simp only [runCommand, abortPacket]; split <;> exact hp
  | softReset => exact absurd rfl hc
  | illegal w => exact pending_raise_of_pending e hp
  | nop | restart | clearStats => exact hp

/-! ### The statements -/

/-- Where the configuration is kept, every operation meets what R41 asks of the five registers and the parameters. -/
theorem KeepsConfiguration.onlyOwnWrites (h : KeepsConfiguration s t) (i : Instr) :
    t.params = s.params ∧
    (i ≠ .reset →
      ((∀ d, i ≠ .ctrlWrite d) → t.ctrl = s.ctrl) ∧
      ((∀ d, i ≠ .irqEnWrite d) → t.irqEn = s.irqEn) ∧
      ((∀ d, i ≠ .resyncLimitWrite d) → t.resyncLimit = s.resyncLimit) ∧
      ((∀ d, i ≠ .cycleIdWrite d) →
        t.cycleId = s.cycleId ∨
        (autoInc s = true ∧ t.cycleId = s.cycleId + 1#32 ∧ t.frameCnt = s.frameCnt + 1#32))) :=
  ⟨h.params, fun _ => ⟨fun _ => h.ctrl, fun _ => h.irqEn, fun _ => h.resyncLimit, fun _ => h.cycleId⟩⟩

/-- Settles O54: packet operations, commands and answers keep the configuration; each of the four writes changes its own
register only. -/
theorem onlyTheHostConfigures : Obligations.OnlyTheHostConfigures := by
  intro s t w i hw hi h
  cases stepEffect_of_decode hw hi h with
  | headerByte b bs ts => exact (packetFrame_takeHeaderByte b { s with schedule := ts, source := bs }).onlyOwnWrites _
  | payloadByte b bs ts => exact (packetFrame_takePayloadByte b { s with schedule := ts, source := bs }).onlyOwnWrites _
  | row ts => exact (packetFrame_transferRow { s with schedule := ts }).onlyOwnWrites _
  | reset ts => exact ⟨rfl, fun hne => absurd rfl hne⟩
  | host ts ops heff =>
    cases heff with
    | answer | events => exact (KeepsConfiguration.refl s).onlyOwnWrites _
    | command c => exact (keepsConfiguration_runCommand c { s with schedule := ts, script := ops }).onlyOwnWrites _
    | ctrl d => exact ⟨rfl, fun _ => ⟨fun hne => absurd rfl (hne d), fun _ => rfl, fun _ => rfl, fun _ => .inl rfl⟩⟩
    | irqEn d => exact ⟨rfl, fun _ => ⟨fun _ => rfl, fun hne => absurd rfl (hne d), fun _ => rfl, fun _ => .inl rfl⟩⟩
    | cycleId d => exact ⟨rfl, fun _ => ⟨fun _ => rfl, fun _ => rfl, fun _ => rfl, fun hne => absurd rfl (hne d)⟩⟩
    | resyncLimit d => exact ⟨rfl, fun _ => ⟨fun _ => rfl, fun _ => rfl, fun hne => absurd rfl (hne d), fun _ => .inl rfl⟩⟩

/-- A write of EVENTS clears the events whose bits it gives as 1 (R110). -/
theorem pending_writeEvents (d : Word) (s : State) (e : Event) :
    pending (writeEvents d s) e = (pending s e && !d.getLsbD e.bit) := by
  have hbit : e.bit < 9 := by cases e <;> decide
  simp [pending, hbit]

/-- What a step that clears a pending event ran. -/
theorem StepEffect.clears {o : Option Instr} {e : Event} (h : StepEffect s o t) (hs : pending s e = true)
    (ht : pending t e = false) :
    ∃ i, o = some i ∧ ((∃ d, i = .eventsWrite d ∧ d.getLsbD e.bit = true) ∨ i = .softReset ∨ i = .reset) := by
  have hkept : ¬pending t e = true := by simp [ht]
  cases h with
  | idle => exact absurd hs hkept
  | headerByte b bs ts => exact (hkept ((packetFrame_takeHeaderByte b _).pending e hs)).elim
  | payloadByte b bs ts => exact (hkept ((packetFrame_takePayloadByte b _).pending e hs)).elim
  | row ts => exact (hkept ((packetFrame_transferRow _).pending e hs)).elim
  | reset ts => exact ⟨_, rfl, .inr (.inr rfl)⟩
  | host ts ops heff =>
    refine ⟨_, rfl, ?_⟩
    cases heff with
    | answer | ctrl | irqEn | cycleId | resyncLimit => exact absurd hs hkept
    | events d =>
      have hd := (pending_writeEvents d { s with schedule := ts, script := ops } e).symm.trans ht
      rw [show pending { s with schedule := ts, script := ops } e = true from hs] at hd
      exact .inl ⟨d, rfl, by simpa using hd⟩
    | command c =>
      by_cases hc : c = .softReset
      · exact .inr (.inl (by rw [hc]; rfl))
      · exact (hkept (pending_runCommand (s := { s with schedule := ts, script := ops }) hc e hs)).elim

/-- Settles O55. -/
theorem eventsAreSticky : Obligations.EventsAreSticky := by
  intro s t e h hs ht
  cases hw : fetch s with
  | none =>
    obtain ⟨i, hi, -⟩ := (stepEffect_of_fetch_none hw h).clears hs ht
    cases hi
  | some w =>
    obtain ⟨i, hi⟩ := Laws.fetch_decodes hw
    obtain ⟨j, hj, hclears⟩ := (stepEffect_of_decode hw hi h).clears hs ht
    cases hj
    exact ⟨w, i, rfl, hi, hclears⟩

/-- Settles O57: only the two byte transfers take from the Source, and what runs afterwards leaves its bytes alone. -/
theorem inputTakesBytesInOrder : Obligations.InputTakesBytesInOrder := by
  intro s t h
  obtain ⟨o, heff⟩ := step_effect h
  cases heff with
  | idle | reset => exact .inl rfl
  | row ts => exact .inl (packetFrame_transferRow _).source
  | headerByte b bs ts hts hbs hen hph =>
    refine .inr ⟨inReady_of_hunt hen hph, ⟨ts, hts⟩, b, ?_⟩
    rw [hbs, (packetFrame_takeHeaderByte b _).source]
  | payloadByte b bs ts hts hbs hen hph =>
    refine .inr ⟨inReady_of_payload hen hph, ⟨ts, hts⟩, b, ?_⟩
    rw [hbs, (packetFrame_takePayloadByte b _).source]
  | host ts ops heff =>
    cases heff with
    | command c => exact .inl (keepsConfiguration_runCommand c _).source
    | answer | ctrl | events | irqEn | cycleId | resyncLimit => exact .inl rfl

end Sys2Proof.Machine
end

section
/-! PROOF. The state invariant (spec R24): one introduction rule a phase, the loop's bound on what it stages (R22, R95), and
then every step, from the states it meets. -/

namespace Sys2Proof.Machine

variable {s t : State}

/-! ### The staged records stay within MAX_OBJ (R95) -/

/-- Each staging array holds at most `m` records. -/
def StagedLe (m : Nat) (v : LoopVars) : Prop := v.objs.length ≤ m ∧ v.sigs.length ≤ m

theorem StagedLe.start (m : Nat) : StagedLe m LoopVars.start := ⟨Nat.zero_le m, Nat.zero_le m⟩

theorem StagedLe.appendObj {m : Nat} {v : LoopVars} (h : StagedLe m v) (r : ObjRec) : StagedLe m (appendObj m r v) := by
  obtain ⟨ho, hs⟩ := h
  unfold Machine.appendObj
  split
  · exact ⟨by simp; omega, hs⟩
  · exact ⟨ho, hs⟩

theorem StagedLe.appendSig {m : Nat} {v : LoopVars} (h : StagedLe m v) (r : SigRec) : StagedLe m (appendSig m r v) := by
  obtain ⟨ho, hs⟩ := h
  unfold Machine.appendSig
  split
  · exact ⟨ho, by simp; omega⟩
  · exact ⟨ho, hs⟩

theorem StagedLe.stageObjs {e : LoopEnv} {v : LoopVars} (h : StagedLe e.maxObj v) (base k : Nat) :
    StagedLe e.maxObj (stageObjs e base k v) := by
  induction k with
  | zero => exact h
  | succ k ih => exact ih.appendObj _

theorem StagedLe.stageSigs {e : LoopEnv} {v : LoopVars} (h : StagedLe e.maxObj v) (base k : Nat) :
    StagedLe e.maxObj (stageSigs e base k v) := by
  induction k with
  | zero => exact h
  | succ k ih => exact ih.appendSig _

/-- A turn stages records only by appending them; the cursor, the index and the flags leave the arrays alone. -/
theorem StagedLe.loopTurn {e : LoopEnv} {v : LoopVars} (h : StagedLe e.maxObj v) : StagedLe e.maxObj (loopTurn e v) := by
  unfold Machine.loopTurn
  split
  · split
    · exact h
    · cases fetchTlv e v with
      | posvel len => exact StagedLe.stageObjs (v := passHeader v) h _ _
      | signal len => exact StagedLe.stageSigs (v := passHeader v) h _ _
      | skip t len | invalid t len | invalidLen t len => exact h
  · exact h

theorem StagedLe.loopFrom {e : LoopEnv} (n : Nat) {v : LoopVars} (h : StagedLe e.maxObj v) :
    StagedLe e.maxObj (loopFrom e n v) := by
  induction n generalizing v with
  | zero => exact h
  | succ n ih =>
    unfold Machine.loopFrom
    split
    · exact ih h.loopTurn
    · exact h

theorem StagedLe.tlvLoop (e : LoopEnv) : StagedLe e.maxObj (tlvLoop e) := (StagedLe.start _).loopFrom _

/-! ### Outcome codes (R35) -/

theorem outcomeInv_of_commit {a b c : Bool} (h : s.lastOutcome = commitOutcome a b c) : outcomeInv s := by
  rw [outcomeInv, h]
  cases a <;> cases b <;> cases c <;> decide

/-- A code without flags. -/
theorem outcomeInv_of_toNat_le (h : s.lastOutcome.toNat ≤ 4) : outcomeInv s := by
  unfold outcomeInv
  omega

/-! ### One introduction rule a phase -/

theorem stateInv_of_hunt (hpar : s.params.legal) (hph : s.phase = .hunt) (hhb : s.hb.length ≤ 39) (hpb : s.pb = [])
    (hst : nothingStaged s) (hout : outcomeInv s) (hloop : s.loop = LoopVars.start) : StateInv s :=
  ⟨hpar, fun _ => ⟨hhb, hpb, hst⟩, by simp [hph], by simp [hph], by simp [hph], hout, hloop⟩

theorem stateInv_of_payload (hpar : s.params.legal) (hph : s.phase = .payload) (hhb : s.hb = [])
    (hpb : s.pb.length < s.hdr.pktLen.toNat - 40) (hmax : s.hdr.pktLen.toNat - 40 ≤ s.params.payloadMax)
    (hst : nothingStaged s) (hout : outcomeInv s) (hloop : s.loop = LoopVars.start) : StateInv s :=
  ⟨hpar, by simp [hph], fun _ => ⟨hhb, hpb, hmax, hst⟩, by simp [hph], by simp [hph], hout, hloop⟩

theorem stateInv_of_emit (hpar : s.params.legal) (hph : s.phase = .emit) (hhb : s.hb = []) (hpb : s.pb = [])
    (hn : s.emitN = min s.obj.length s.sig.length) (hidx : s.emitIdx < s.emitN)
    (hobj : s.obj.length ≤ s.params.maxObj) (hsig : s.sig.length ≤ s.params.maxObj)
    (hout : outcomeInv s) (hloop : s.loop = LoopVars.start) : StateInv s :=
  ⟨hpar, by simp [hph], by simp [hph], fun _ => ⟨hhb, hpb, hn, by omega, hidx, hobj, hsig⟩, by simp [hph], hout, hloop⟩

theorem stateInv_of_halt (hpar : s.params.legal) (hph : s.phase = .halt) (hhb : s.hb.length = 39) (hpb : s.pb = [])
    (hst : nothingStaged s) (hout : outcomeInv s) (hloop : s.loop = LoopVars.start) : StateInv s :=
  ⟨hpar, by simp [hph], by simp [hph], by simp [hph], fun _ => ⟨hhb, hpb, hst⟩, hout, hloop⟩

/-! ### Reset (R45, R116, R129) -/

theorem stateInv_of_reset (p : Params) (hp : p.legal) : StateInv { State.reset with params := p } :=
  stateInv_of_hunt hp rfl (Nat.zero_le _) rfl ⟨rfl, rfl, rfl, rfl⟩ (outcomeInv_of_toNat_le (Nat.zero_le _)) rfl

theorem stateInv_resetDatapath (hp : s.params.legal) : StateInv (resetDatapath s) :=
  stateInv_of_hunt hp rfl (Nat.zero_le _) rfl ⟨rfl, rfl, rfl, rfl⟩ (outcomeInv_of_toNat_le (Nat.zero_le _)) rfl

/-! ### The packet operations -/

/-- What holds while a packet's last step is under way, whatever the phase, HB's fill and the outcome before: the
parameters are legal, nothing is staged, the loop is at rest. -/
structure PacketInv (s : State) : Prop where
  params : s.params.legal
  staged : nothingStaged s
  outcome : outcomeInv s
  loop : s.loop = LoopVars.start

theorem stateInv_enterDiscard (h : PacketInv s) (e : Event) {code : BitVec 7} (hcode : code.toNat ≤ 4) :
    StateInv (enterDiscard e code s) := by
  obtain ⟨hpar, ⟨-, -, hn, hidx⟩, -, hloop⟩ := h
  exact stateInv_of_hunt hpar rfl (Nat.zero_le _) rfl ⟨rfl, rfl, hn, hidx⟩ (outcomeInv_of_toNat_le hcode) hloop

theorem stateInv_applyCommit (h : PacketInv s) (hhb : s.hb = []) {os : List ObjRec} {gs : List SigRec} (sh ov : Bool)
    (ho : os.length ≤ s.params.maxObj) (hg : gs.length ≤ s.params.maxObj) : StateInv (applyCommit os gs sh ov s) := by
  have hout := commitRecord_lastOutcome s os gs sh ov
  rcases applyCommit_cases os gs sh ov s with ⟨hn, heq⟩ | ⟨-, heq⟩ <;> rw [heq]
  · exact stateInv_of_emit (by simpa using h.params) rfl (by simpa using hhb) (by simp) rfl hn (by simpa using ho)
      (by simpa using hg) (outcomeInv_of_commit hout) (by simpa using h.loop)
  · exact stateInv_of_hunt (by simpa using h.params) rfl (by simp [hhb]) (by simp) ⟨rfl, rfl, rfl, rfl⟩
      (outcomeInv_of_commit hout) (by simpa using h.loop)

theorem stateInv_finishPacket (h : PacketInv s) (hhb : s.hb = []) : StateInv (finishPacket s) := by
  obtain ⟨ho, hg⟩ := StagedLe.tlvLoop (loopEnv s)
  rcases finishPacket_cases s with ⟨i, t, len, heq⟩ | heq <;> rw [heq]
  · obtain ⟨hpar, hhunt, hpay, hemit, hhalt, hout, -⟩ := stateInv_enterDiscard h .tlvBad (code := outcomeTlvBad) (by decide)
    exact ⟨hpar, hhunt, hpay, hemit, hhalt, hout, rfl⟩
  · obtain ⟨hpar, hhunt, hpay, hemit, hhalt, hout, -⟩ := stateInv_applyCommit h hhb (tlvLoop (loopEnv s)).short
      (tlvLoop (loopEnv s)).ovf ho hg
    exact ⟨hpar, hhunt, hpay, hemit, hhalt, hout, rfl⟩

/-- An accepted length leaves a payload that fits (R83, R84). -/
theorem stateInv_checkLength (h : PacketInv s) (hhb : s.hb = []) : StateInv (checkLength s) := by
  rcases checkLength_cases s with ⟨-, heq⟩ | ⟨hok, heq⟩ <;> rw [heq]
  · exact stateInv_enterDiscard h .lenBad (by decide)
  · simp only [lengthBad, Bool.or_eq_false_iff, decide_eq_false_iff_not, Nat.not_lt, Config.hdrLen] at hok
    obtain ⟨hge, hmax⟩ := hok
    rcases acceptHeader_cases s with ⟨-, heq⟩ | ⟨hne, heq⟩ <;> rw [heq]
    · exact stateInv_finishPacket ⟨h.params, h.staged, h.outcome, h.loop⟩ hhb
    · exact stateInv_of_payload h.params rfl hhb (show 0 < s.hdr.pktLen.toNat - 40 by omega) hmax h.staged h.outcome h.loop

theorem stateInv_shiftWindow (h : PacketInv s) (hhb : s.hb.length = 40) (hph : s.phase = .hunt) (hpb : s.pb = []) :
    StateInv (shiftWindow s) := by
  have htail : s.hb.tail.length = 39 := by simp [hhb]
  obtain ⟨u, rfl, heq | heq⟩ := shiftWindow_cases s <;> rw [heq]
  · exact stateInv_of_hunt h.params hph htail.le hpb h.staged h.outcome h.loop
  · exact stateInv_of_halt h.params rfl htail hpb h.staged h.outcome h.loop

theorem stateInv_takeHeaderByte (h : StateInv s) (hph : s.phase = .hunt) (b : Byte) : StateInv (takeHeaderByte b s) := by
  obtain ⟨hpar, hhunt, -, -, -, hout, hloop⟩ := h
  obtain ⟨hhb, hpb, hst⟩ := hhunt hph
  rcases takeHeaderByte_cases b s with ⟨hne, heq⟩ | ⟨-, -, heq⟩ | ⟨hlen, -, heq⟩ <;> rw [heq]
  · exact stateInv_of_hunt hpar hph (by simp; omega) hpb hst hout hloop
  · exact stateInv_checkLength ⟨hpar, hst, hout, hloop⟩ rfl
  · exact stateInv_shiftWindow ⟨hpar, hst, hout, hloop⟩ (by simp [hlen]) hph hpb

theorem stateInv_takePayloadByte (h : StateInv s) (hph : s.phase = .payload) (b : Byte) :
    StateInv (takePayloadByte b s) := by
  obtain ⟨hpar, -, hpay, -, -, hout, hloop⟩ := h
  obtain ⟨hhb, hpb, hmax, hst⟩ := hpay hph
  rcases takePayloadByte_cases b s with ⟨hne, heq⟩ | ⟨-, heq⟩ <;> rw [heq]
  · simp only [payloadLen, Config.hdrLen] at hne
    exact stateInv_of_payload hpar hph hhb (by simp; omega) hmax hst hout hloop
  · exact stateInv_finishPacket ⟨hpar, hst, hout, hloop⟩ hhb

theorem stateInv_transferRow (h : StateInv s) (hph : s.phase = .emit) : StateInv (transferRow s) := by
  obtain ⟨hpar, -, -, hemit, -, hout, hloop⟩ := h
  obtain ⟨hhb, hpb, hn, -, hidx, hobj, hsig⟩ := hemit hph
  obtain ⟨u, rfl, ⟨-, heq⟩ | ⟨hne, heq⟩⟩ := transferRow_cases s <;> rw [heq]
  · exact stateInv_of_hunt hpar rfl (by simp [hhb]) hpb ⟨rfl, rfl, rfl, rfl⟩ hout hloop
  · exact stateInv_of_emit hpar hph hhb hpb hn (show s.emitIdx + 1 < s.emitN by omega) hobj hsig hout hloop

/-! ### The commands -/

theorem stateInv_abortPacket (h : StateInv s) : StateInv (abortPacket s) := by
  obtain ⟨hpar, hhunt, hpay, hemit, hhalt, hout, hloop⟩ := h
  cases hph : s.phase <;> simp only [abortPacket, hph]
  case hunt =>
    obtain ⟨-, hpb, hst⟩ := hhunt hph
    exact stateInv_of_hunt hpar rfl (Nat.zero_le _) hpb hst hout hloop
  case payload =>
    obtain ⟨hhb, -, -, hst⟩ := hpay hph
    exact stateInv_of_hunt hpar rfl (by simp [hhb]) rfl hst
      (outcomeInv_of_toNat_le (show outcomeAbort.toNat ≤ 4 by decide)) hloop
  case emit => exact ⟨hpar, hhunt, hpay, hemit, hhalt, hout, hloop⟩
  case halt =>
    obtain ⟨-, hpb, hst⟩ := hhalt hph
    exact stateInv_of_hunt hpar rfl (Nat.zero_le _) hpb hst hout hloop

/-- In HALT the window keeps its 39 bytes, which HUNT allows (R114, R122). -/
theorem stateInv_restartSearch (h : StateInv s) : StateInv (restartSearch s) := by
  by_cases hph : s.phase = .halt
  · obtain ⟨hpar, -, -, -, hhalt, hout, hloop⟩ := h
    obtain ⟨hhb, hpb, hst⟩ := hhalt hph
    exact stateInv_of_hunt hpar (by simp [hph]) hhb.le hpb hst hout hloop
  · rw [restartSearch, if_neg hph]
    exact h

theorem stateInv_runCommand (h : StateInv s) (c : CmdOp) : StateInv (runCommand c s) := by
  cases c with
  | abort => exact stateInv_abortPacket h
  | restart => exact stateInv_restartSearch h
  | softReset => exact stateInv_resetDatapath h.1
  | nop | clearStats | illegal w => exact h

/-! ### The statements -/

/-- Settles O51: the environment's fields and the configuration are not in the invariant; what else a step does keeps it. -/
theorem stepKeepsTheInvariant : Obligations.StepKeepsTheInvariant := by
  intro s t h hstep
  obtain ⟨o, heff⟩ := step_effect hstep
  cases heff with
  | idle => exact h
  | headerByte b bs ts hts hbs hen hph => exact stateInv_takeHeaderByte (s := { s with schedule := ts, source := bs }) h hph b
  | payloadByte b bs ts hts hbs hen hph =>
    exact stateInv_takePayloadByte (s := { s with schedule := ts, source := bs }) h hph b
  | row ts hph => exact stateInv_transferRow (s := { s with schedule := ts }) h hph
  | reset ts => exact stateInv_resetDatapath (s := { s with schedule := ts }) h.1
  | host ts ops heff =>
    cases heff with
    | command c => exact stateInv_runCommand (s := { s with schedule := ts, script := ops }) h c
    | answer | ctrl | events | irqEn | cycleId | resyncLimit => exact h

/-- Settles O50. -/
theorem resetMeetsTheInvariant : Obligations.ResetMeetsTheInvariant :=
  ⟨stateInv_of_reset Params.default (by decide), stateInv_of_reset⟩

/-- Settles O49: no port signal and no register but the two CFG ones reads the parameters, and of the others only STATUS and
LAST_OUTCOME are more than a field's reset value. -/
theorem resetStateValues : Obligations.ResetStateValues := by
  intro p
  have hready : inReady State.reset = false := by decide
  have hvalid : outValid State.reset = false := by decide
  have hirq : irq State.reset = false := by decide
  have hstatus : readReg State.reset .status = 0#32 := by decide
  have houtcome : readReg State.reset .lastOutcome = 0#32 := by decide
  refine ⟨rfl, rfl, rfl, rfl, rfl, rfl, rfl, rfl, hready, hvalid, hirq, fun r => ?_⟩
  cases r
  case status => exact hstatus
  case lastOutcome => exact houtcome
  all_goals rfl

end Sys2Proof.Machine
end

section
/-! PROOF. How bytes make up the multi-byte fields (spec R47), and what becomes of a host access that is refused: by its address
at the port (R51), or by its width at the bus bridge (R50). -/

namespace Sys2Proof

/-! ### Byte order (R47) -/

/-- The right part of a concatenation is the less significant one. -/
theorem toNat_append_eq_add {m n : Nat} (hi : BitVec m) (lo : BitVec n) :
    (hi ++ lo).toNat = lo.toNat + 2 ^ n * hi.toNat := by
  rw [BitVec.toNat_append, ← Nat.shiftLeft_add_eq_or_of_lt lo.isLt, Nat.shiftLeft_eq, Nat.add_comm, Nat.mul_comm]

theorem toNat_le16 (s : List Byte) (o : Nat) :
    (le16 s o).toNat = (byteAt s o).toNat + 2 ^ 8 * (byteAt s (o + 1)).toNat := toNat_append_eq_add _ _

theorem toNat_le32 (s : List Byte) (o : Nat) :
    (le32 s o).toNat = (byteAt s o).toNat + 2 ^ 8 * (byteAt s (o + 1)).toNat + 2 ^ 16 * (byteAt s (o + 2)).toNat
      + 2 ^ 24 * (byteAt s (o + 3)).toNat := by
  simp only [le32, toNat_append_eq_add]
  omega

theorem toNat_le64 (s : List Byte) (o : Nat) :
    (le64 s o).toNat = (le32 s o).toNat + 2 ^ 32 * (le32 s (o + 4)).toNat := toNat_append_eq_add _ _

/-- Settles O6. -/
theorem fieldsAreLittleEndian : Obligations.FieldsAreLittleEndian :=
  fun s o => ⟨toNat_le16 s o, toNat_le32 s o, toNat_le64 s o⟩

/-! ### Refused addresses (R50, R51) -/

theorem badAddr_iff (a : Addr) : badAddr a = true ↔ a.toNat % 4 ≠ 0 ∨ 0x80 ≤ a.toNat := by simp [badAddr]

theorem decodeRead_of_bad {a : Addr} (h : badAddr a = true) : decodeRead a = .regAccessFault (.read a) := if_pos h

theorem decodeWrite_of_bad {a : Addr} (h : badAddr a = true) (d : Word) :
    decodeWrite a d = .regAccessFault (.write a d) := if_pos h

namespace Machine

theorem exec_regAccessFault (acc : Access) (s : State) : exec (.regAccessFault acc) s = .next (answerFault acc s) := rfl

theorem answerFault_read (a : Addr) (s : State) : answerFault (.read a) s = { s with hostResp := .read 0#32 true } := rfl

theorem answerFault_write (a : Addr) (d : Word) (s : State) :
    answerFault (.write a d) s = { s with hostResp := .write true } := rfl

/-! ### Narrow accesses (R50) -/

section Narrow
variable {s : State} {ts : List Turn} {ops : List HostOp} {isWrite : Bool} {a : Addr}

/-- A narrow access never reaches the port. -/
theorem fetch_of_host_narrow (hs : s.schedule = .host :: ts) (ho : s.script = .narrow isWrite a :: ops) :
    fetch s = none := by
  simp [fetch_of_schedule hs, fetchTurn, ho]

/-- The bus bridge answers in the port's place. -/
theorem passTurn_of_host_narrow (hs : s.schedule = .host :: ts) (ho : s.script = .narrow isWrite a :: ops) :
    passTurn s = { s with
      schedule := ts, script := ops, hostResp := if isWrite then .write true else .read 0#32 true } := by
  simp [passTurn, hs, ho]

theorem step_host_narrow (hs : s.schedule = .host :: ts) (ho : s.script = .narrow isWrite a :: ops) :
    step s = .next { s with
      schedule := ts, script := ops, hostResp := if isWrite then .write true else .read 0#32 true } := by
  rw [step_of_fetch_none (fetch_of_host_narrow hs ho), passTurn_of_host_narrow hs ho]

end Narrow

/-- Settles O38: the fault operation, the addresses that decode to it, and the bridge's answer to each narrow access. -/
theorem badAccessAnswersError : Obligations.BadAccessAnswersError := by
  refine ⟨fun a s => ?read, fun a d s => ?write, fun a h => ?decoded, fun s isWrite a ops ts hs ho => ?narrow⟩
  case read => rw [exec_regAccessFault, answerFault_read]
  case write => rw [exec_regAccessFault, answerFault_write]
  case decoded =>
    have hbad : badAddr a = true := (badAddr_iff a).2 h
    exact ⟨decodeRead_of_bad hbad, decodeWrite_of_bad hbad⟩
  case narrow =>
    have hstep := step_host_narrow hs ho
    cases isWrite with
    | true => exact ⟨fun _ => hstep, nofun⟩
    | false => exact ⟨nofun, fun _ => ⟨0#32, hstep⟩⟩

end Machine
end Sys2Proof
end

section
/-! PROOF. The rows of the opcode table (30_encoding.md; spec R64, R66, R72, R73): each is an aligned block of words, the blocks
of a format tile a range of words, and the row that applies to a word names the operation the decoder reads. -/

namespace Sys2Proof

/-! ### A row is an aligned block of words -/

/-- The number of low bits a row's mask leaves free. -/
def TableRow.freeBits (r : TableRow) : Nat := Nat.log2 (2 ^ 32 - r.mask.toNat)

/-- The mask is all ones above the free bits, and the pattern is 0 in them. -/
def TableRow.isBlock (r : TableRow) : Bool :=
  decide (r.mask = BitVec.allOnes 32 <<< r.freeBits) && decide (r.pat.toNat % 2 ^ r.freeBits = 0)

/-- An aligned block's words are those from its pattern on, one for each value of the free bits. -/
theorem TableRow.applies_iff_of_isBlock {r : TableRow} (h : r.isBlock = true) (w : Word) :
    r.applies w = true ↔ r.pat.toNat ≤ w.toNat ∧ w.toNat < r.pat.toNat + 2 ^ r.freeBits := by
  simp only [isBlock, Bool.and_eq_true, decide_eq_true_eq] at h
  obtain ⟨hmask, hpat⟩ := h
  obtain ⟨q, hq⟩ := Nat.dvd_of_mod_eq_zero hpat
  have hpos : 0 < 2 ^ r.freeBits := Nat.two_pow_pos _
  have hcleared : (w &&& r.mask).toNat = 2 ^ r.freeBits * (w.toNat / 2 ^ r.freeBits) := by
    rw [hmask, ← BitVec.shiftLeft_ushiftRight, BitVec.toNat_shiftLeft, BitVec.toNat_ushiftRight,
      Nat.shiftRight_eq_div_pow, Nat.shiftLeft_eq, Nat.mul_comm,
      Nat.mod_eq_of_lt (lt_of_le_of_lt (Nat.mul_div_le _ _) w.isLt)]
  rw [applies, decide_eq_true_eq, ← BitVec.toNat_inj, hcleared, hq, Nat.mul_right_inj hpos.ne', Nat.div_eq_iff hpos,
    Nat.mul_comm q]
  omega

/-- Only words from the pattern on match a row. -/
theorem TableRow.pat_le_of_applies {r : TableRow} {w : Word} (h : r.applies w = true) : r.pat.toNat ≤ w.toNat := by
  rw [← of_decide_eq_true h, BitVec.toNat_and]
  exact Nat.and_le_left

/-- A row without free bits matches its pattern only. -/
theorem TableRow.eq_pat_of_applies {r : TableRow} {w : Word} (hmask : r.mask = BitVec.allOnes 32)
    (h : r.applies w = true) : w = r.pat := by
  rw [← of_decide_eq_true h, hmask, BitVec.and_allOnes]

/-! ### The rows of a format tile a range of words -/

/-- The rows are blocks that follow each other without a gap, from the word `first` up to before `last`. -/
def tiles (last : Nat) : Nat → List TableRow → Bool
  | first, [] => decide (first = last)
  | first, r :: rs => r.isBlock && decide (r.pat.toNat = first) && tiles last (first + 2 ^ r.freeBits) rs

theorem tiles_cons {last first : Nat} {r : TableRow} {rs : List TableRow} :
    tiles last first (r :: rs) = true ↔
      r.isBlock = true ∧ r.pat.toNat = first ∧ tiles last (first + 2 ^ r.freeBits) rs = true := by
  simp [tiles, and_assoc]

theorem le_of_tiles {last first : Nat} {rows : List TableRow} (h : tiles last first rows = true) : first ≤ last := by
  induction rows generalizing first with
  | nil => exact (of_decide_eq_true h).le
  | cons r rs ih =>
    obtain ⟨-, -, htail⟩ := tiles_cons.1 h
    exact le_trans (Nat.le_add_right _ _) (ih htail)

/-- A word within the range matches one row, any other none. -/
theorem countP_applies_of_tiles {last first : Nat} {rows : List TableRow} (h : tiles last first rows = true) (w : Word) :
    rows.countP (fun r => r.applies w) = if first ≤ w.toNat ∧ w.toNat < last then 1 else 0 := by
  induction rows generalizing first with
  | nil =>
    have heq : first = last := of_decide_eq_true h
    rw [List.countP_nil, if_neg (by omega)]
  | cons r rs ih =>
    obtain ⟨hblock, rfl, htail⟩ := tiles_cons.1 h
    have hle := le_of_tiles htail
    have hpos : 0 < 2 ^ r.freeBits := Nat.two_pow_pos _
    rw [List.countP_cons, ih htail]
    simp only [r.applies_iff_of_isBlock hblock w]
    split_ifs <;> omega

/-- The rows by rising pattern: the table lists the recognized TLV types before the skipped ones. -/
def byPattern (rows : List TableRow) : List TableRow := rows.insertionSort fun r q => r.pat.toNat ≤ q.pat.toNat

/-- Where the rows tile all words, each word matches exactly one, wherever in the table it stands. -/
theorem filter_applies_length_of_tiles {rows : List TableRow} (h : tiles (2 ^ 32) 0 (byPattern rows) = true) (w : Word) :
    (rows.filter (fun r => r.applies w)).length = 1 := by
  have hperm : (byPattern rows).Perm rows := List.perm_insertionSort _ rows
  rw [← List.countP_eq_length_filter, ← hperm.countP_eq, countP_applies_of_tiles h, if_pos ⟨Nat.zero_le _, w.isLt⟩]

theorem tiles_tlvTypeRows : tiles (2 ^ 32) 0 (byPattern tlvTypeRows) = true := by decide

theorem tiles_tlvLengthRows : tiles (2 ^ 32) 10001 tlvLengthRows = true := by decide

theorem tiles_cmdRows : tiles (2 ^ 32) 0 (byPattern cmdRows) = true := by decide

/-- Settles O4: the rows of each format tile their range of words. -/
theorem tableRowsPartitionTheWords : Obligations.TableRowsPartitionTheWords := by
  intro w
  refine ⟨filter_applies_length_of_tiles tiles_tlvTypeRows w, filter_applies_length_of_tiles tiles_cmdRows w, ?_⟩
  have hcount := countP_applies_of_tiles tiles_tlvLengthRows w
  have hlt := w.isLt
  rw [← List.countP_pos_iff (p := fun r : TableRow => r.applies w), hcount]
  split_ifs <;> omega

/-! ### The row that applies names the operation -/

/-- Each row either has one word, which `name` gives the row's mnemonic, or stands above `bound`, and its mnemonic is
`rest`. -/
def namesRows (name : Word → String) (bound : Nat) (rest : String) (rows : List TableRow) : Bool :=
  rows.all fun r =>
    decide (r.mask = BitVec.allOnes 32) && decide (name r.pat = r.mnemonic) ||
      decide (bound < r.pat.toNat) && decide (r.mnemonic = rest)

/-- Then, if `name` is `rest` above `bound`, a row that applies to a word has the word's name. -/
theorem name_eq_of_applies {name : Word → String} {bound : Nat} {rest : String} {rows : List TableRow}
    (hrest : ∀ w : Word, bound < w.toNat → name w = rest) (hrows : namesRows name bound rest rows = true)
    {r : TableRow} (hr : r ∈ rows) {w : Word} (hw : r.applies w = true) : name w = r.mnemonic := by
  have hrow := List.all_eq_true.1 hrows r hr
  simp only [Bool.or_eq_true, Bool.and_eq_true, decide_eq_true_eq] at hrow
  rcases hrow with ⟨hmask, hname⟩ | ⟨hbound, hname⟩
  · rw [TableRow.eq_pat_of_applies hmask hw, hname]
  · rw [hrest w (lt_of_lt_of_le hbound (TableRow.pat_le_of_applies hw)), hname]

/-- Within the length bound the type alone names the operation (R65, R66). -/
theorem mnemonic_decodeTlv_of_le {len : Word} (h : len.toNat ≤ 10000) (t : Word) :
    (decodeTlv t len).toInstr.mnemonic = (decodeTlv t 0#32).toInstr.mnemonic := by
  have h0 : ¬Config.tlvLenMax < (0#32).toNat := by decide
  unfold decodeTlv
  rw [if_neg (Nat.not_lt.2 h), if_neg h0]
  split_ifs <;> rfl

theorem mnemonic_decodeTlv_of_long {len : Word} (h : 10000 < len.toNat) (t : Word) :
    (decodeTlv t len).toInstr.mnemonic = "TLV_INVALID_LEN" := by
  rw [decodeTlv, if_pos h]
  rfl

theorem mnemonic_decodeTlv_of_type {t : Word} (h : 20 < t.toNat) :
    (decodeTlv t 0#32).toInstr.mnemonic = "TLV_INVALID" := by
  rw [decodeTlv, if_neg (by decide), if_pos h]
  rfl

theorem mnemonic_decodeCmd_of_gt {w : Word} (h : 4 < w.toNat) : (decodeCmd w).toInstr.mnemonic = "CMD_ILLEGAL" := by
  rw [decodeCmd_of_gt h]
  rfl

theorem tlvLengthRows_above :
    ∀ r ∈ tlvLengthRows, 10000 < r.pat.toNat ∧ r.mnemonic = "TLV_INVALID_LEN" := by decide

/-- Settles O5: for each table, the rows of one word are evaluated, and the others stand above a bound past which the decoder
reads one operation. -/
theorem tableRowsNameTheDecodedOperation : Obligations.TableRowsNameTheDecodedOperation := by
  refine ⟨fun r hr t len hlen ht => ?_, fun r hr t len hlen => ?_, fun r hr w hw => ?_⟩
  · rw [mnemonic_decodeTlv_of_le hlen]
    exact name_eq_of_applies (name := fun t => (decodeTlv t 0#32).toInstr.mnemonic)
      (fun _ => mnemonic_decodeTlv_of_type) (by decide : namesRows _ 20 "TLV_INVALID" tlvTypeRows = true) hr ht
  · obtain ⟨hbound, hname⟩ := tlvLengthRows_above r hr
    rw [mnemonic_decodeTlv_of_long (lt_of_lt_of_le hbound (TableRow.pat_le_of_applies hlen)), hname]
  · exact name_eq_of_applies (name := fun w => (decodeCmd w).toInstr.mnemonic)
      (fun _ => mnemonic_decodeCmd_of_gt) (by decide : namesRows _ 4 "CMD_ILLEGAL" cmdRows = true) hr hw

end Sys2Proof
end

section
/-! PROOF. Reserved register bits (spec R74), and the CMD words that stand for no command (R73, R117). -/

namespace Sys2Proof.Machine

/-! ### Reserved bits read 0 -/

/-- A bit of a field of zeros is 0. -/
theorem getLsbD_of_extractLsb'_eq_zero {w n i j : Nat} {x : BitVec w} (h : x.extractLsb' i n = 0#n) (hij : i ≤ j)
    (hj : j < i + n) : x.getLsbD j = false := by
  have hbit := congrArg (fun y : BitVec n => y.getLsbD (j - i)) h
  simpa [BitVec.getLsbD_extractLsb', show j - i < n by omega, show i + (j - i) = j by omega,
    -BitVec.getLsbD_eq_getElem] using hbit

theorem getLsbD_readReg_ctrl (s : State) {i : Nat} (h : 2 ≤ i) : (readReg s .ctrl).getLsbD i = false := by
  simp [readReg, BitVec.getLsbD_setWidth, BitVec.getLsbD_of_ge _ _ h]

theorem getLsbD_readReg_events (s : State) {i : Nat} (h : 9 ≤ i) : (readReg s .events).getLsbD i = false := by
  simp [readReg, BitVec.getLsbD_setWidth, BitVec.getLsbD_of_ge _ _ h]

theorem getLsbD_readReg_irqEn (s : State) {i : Nat} (h : 9 ≤ i) : (readReg s .irqEn).getLsbD i = false := by
  simp [readReg, BitVec.getLsbD_setWidth, BitVec.getLsbD_of_ge _ _ h]

/-- Bit 3 is masked, and above bit 6 there is no storage (R35). -/
theorem getLsbD_readReg_lastOutcome (s : State) {i : Nat} (h : i = 3 ∨ 7 ≤ i) :
    (readReg s .lastOutcome).getLsbD i = false := by
  rcases h with rfl | h
  · simp [readReg, outcomeWord]
  · simp [readReg, outcomeWord, BitVec.getLsbD_setWidth, BitVec.getLsbD_of_ge _ _ h]

/-- The bits between and above the fields of STATUS (R29). -/
theorem getLsbD_readReg_status (s : State) {i : Nat} (h : i = 6 ∨ i = 7 ∨ 14 ≤ i) :
    (readReg s .status).getLsbD i = false := by
  obtain ⟨-, -, -, -, -, h6, -, h14⟩ := statusWord_fields s
  by_cases hlow : i ≤ 7
  · exact getLsbD_of_extractLsb'_eq_zero h6 (by omega) (by omega)
  · by_cases hi : i < 32
    · exact getLsbD_of_extractLsb'_eq_zero h14 (by omega) hi
    · exact BitVec.getLsbD_of_ge _ _ (Nat.le_of_not_lt hi)

/-! ### Reserved bits ignore writes -/

/-- A write with the reserved bits 0 gives the fields the same bits. -/
theorem exec_ctrlWrite_and (d : Word) (s : State) : exec (.ctrlWrite d) s = exec (.ctrlWrite (d &&& 0x3#32)) s := by
  have hfield : (d &&& 0x3#32).extractLsb' 0 2 = d.extractLsb' 0 2 := by
    rw [BitVec.extractLsb'_and]
    exact BitVec.and_allOnes
  simp only [exec, execCtrlWrite, writeCtrl, hfield]

/-- EVENTS and IRQ_EN have the same nine bits (R30). -/
theorem extractLsb'_and_nine (d : Word) : (d &&& 0x1FF#32).extractLsb' 0 9 = d.extractLsb' 0 9 := by
  rw [BitVec.extractLsb'_and]
  exact BitVec.and_allOnes

theorem exec_eventsWrite_and (d : Word) (s : State) :
    exec (.eventsWrite d) s = exec (.eventsWrite (d &&& 0x1FF#32)) s := by
  simp only [exec, execEventsWrite, writeEvents, extractLsb'_and_nine]

theorem exec_irqEnWrite_and (d : Word) (s : State) :
    exec (.irqEnWrite d) s = exec (.irqEnWrite (d &&& 0x1FF#32)) s := by
  simp only [exec, execIrqEnWrite, writeIrqEn, extractLsb'_and_nine]

/-- Settles O36, register by register. -/
theorem reservedBitsReadZero : Obligations.ReservedBitsReadZero := by
  refine ⟨fun s i => ⟨getLsbD_readReg_ctrl s, fun h => ⟨getLsbD_readReg_events s h, getLsbD_readReg_irqEn s h⟩,
    getLsbD_readReg_lastOutcome s, getLsbD_readReg_status s⟩, fun s d =>
    ⟨exec_ctrlWrite_and d s, exec_eventsWrite_and d s, exec_irqEnWrite_and d s, fun i hi => ?_⟩⟩
  simp only [List.mem_cons, List.not_mem_nil, or_false] at hi
  rcases hi with rfl | rfl | rfl <;> exact ⟨_, rfl, rfl⟩

/-! ### Illegal commands -/

/-- Settles O47: the word selects no command, and the operation raises CMD_ERR. -/
theorem illegalCommandRaisesCmdErr : Obligations.IllegalCommandRaisesCmdErr := by
  refine ⟨fun w hw => ?decoded, fun w s => ?effect⟩
  case decoded =>
    rw [decode_cmdWord, decodeCmd_of_gt hw]
    rfl
  case effect =>
    have hmask : Event.cmdErr.mask = 0x100#9 := by decide
    rw [← hmask]
    rfl

end Sys2Proof.Machine
end

section
/-! PROOF. A packet byte by byte (spec R77, R80, R83, R84, R88): from an empty window the Source's turns give the header and
then the payload, and the last byte finishes the packet. The packet of R98 with a declared length above 10000 ends there in
a discard (R66, R91, R97). -/

namespace Sys2Proof.Machine

/-! ### Runs -/

/-- `n` steps lead from `s` to `t`. -/
def Runs (n : Nat) (s t : State) : Prop := Host.Core.run Sys2Proof.core n s = .next t

section Runs
variable {s t u : State} {m n : Nat}

theorem Runs.zero (s : State) : Runs 0 s s := rfl

theorem runs_succ_of_step (h : step s = .next u) : Runs (n + 1) s t ↔ Runs n u t := by
  simp only [Runs, Host.Core.run, show Sys2Proof.core.step s = .next u from h]

theorem Runs.step (h : Machine.step s = .next u) (hu : Runs n u t) : Runs (n + 1) s t := (runs_succ_of_step h).2 hu

theorem Runs.trans (h : Runs m s u) (hu : Runs n u t) : Runs (m + n) s t := by
  induction m generalizing s with
  | zero => cases h; rwa [Nat.zero_add]
  | succ m ih =>
    cases hs : Machine.step s with
    | next v => rw [Nat.succ_add]; exact .step hs (ih ((runs_succ_of_step hs).1 h))
    | fault r => cases r
    | refused r =>
      simp only [Runs, Host.Core.run, show Sys2Proof.core.step s = .refused r from hs] at h
      cases h

theorem Runs.snoc (h : Runs n s u) (hu : Machine.step u = .next t) : Runs (n + 1) s t := h.trans (.step hu (.zero t))

/-- A run over bytes of the Source, `F xs` being the state after the bytes `xs`, with what is still offered and scheduled:
it is enough that each byte leads from one to the next. -/
theorem runs_source {F : List Byte → List Byte → List Turn → State} {bs rest : List Byte} {ts : List Turn}
    (hstep : ∀ xs b src sch, xs.length < bs.length →
      Machine.step (F xs (b :: src) (.source :: sch)) = .next (F (xs ++ [b]) src sch)) :
    Runs bs.length (F [] (bs ++ rest) (List.replicate bs.length .source ++ ts)) (F bs rest ts) := by
  have hfrom : ∀ ys xs, xs ++ ys = bs →
      Runs ys.length (F xs (ys ++ rest) (List.replicate ys.length .source ++ ts)) (F bs rest ts) := by
    intro ys
    induction ys with
    | nil => rintro xs rfl; rw [List.append_nil]; exact .zero _
    | cons b ys ih =>
      intro xs hxs
      exact .step (hstep xs b _ _ (by simp [← hxs])) (ih (xs ++ [b]) (by simp [hxs]))
  exact hfrom bs [] rfl

end Runs

/-! ### One byte (R77, R78, R88) -/

section Byte
variable {s : State} {b : Byte} {bs : List Byte} {ts : List Turn} (hs : s.schedule = .source :: ts) (hb : s.source = b :: bs)
  (he : enabled s = true)
include hs hb he

theorem step_fillsWindow (hp : s.phase = .hunt) (hfill : s.hb.length < 39) :
    step s = .next { s with hb := s.hb ++ [b], source := bs, schedule := ts } := by
  rw [step_source_hunt hs hb he hp, exec_byteInHunt (by exact he) (by exact hp)]
  rcases takeHeaderByte_cases b { s with source := bs, schedule := ts } with ⟨-, h⟩ | ⟨hlen, -⟩ | ⟨hlen, -⟩
  · rw [h]; rfl
  · exact absurd hlen hfill.ne
  · exact absurd hlen hfill.ne

theorem step_completesHeader (hp : s.phase = .hunt) (hfill : s.hb.length = 39) (hsync : isSync (s.hb ++ [b]) = true) :
    step s = .next (latchHeader (headerAt (s.hb ++ [b]))
      { s with hb := s.hb ++ [b], source := bs, schedule := ts }) := by
  rw [step_source_hunt hs hb he hp, exec_byteInHunt (by exact he) (by exact hp)]
  rcases takeHeaderByte_cases b { s with source := bs, schedule := ts } with ⟨hlen, -⟩ | ⟨-, -, h⟩ | ⟨-, hno, -⟩
  · exact absurd hfill hlen
  · rw [h]; rfl
  · exact absurd hsync (by simpa using hno)

theorem step_fillsPayload (hp : s.phase = .payload) (hfill : s.pb.length + 1 ≠ payloadLen s) :
    step s = .next { s with pb := s.pb ++ [b], source := bs, schedule := ts } := by
  rw [step_source_payload hs hb he hp, exec_byteInPayload (by exact he) (by exact hp)]
  rcases takePayloadByte_cases b { s with source := bs, schedule := ts } with ⟨-, h⟩ | ⟨hlen, -⟩
  · rw [h]; rfl
  · exact absurd hlen hfill

theorem step_completesPacket (hp : s.phase = .payload) (hfill : s.pb.length + 1 = payloadLen s) :
    step s = .next (finishPacket { s with pb := s.pb ++ [b], source := bs, schedule := ts }) := by
  rw [step_source_payload hs hb he hp, exec_byteInPayload (by exact he) (by exact hp)]
  rcases takePayloadByte_cases b { s with source := bs, schedule := ts } with ⟨hlen, -⟩ | ⟨-, h⟩
  · exact absurd hfill hlen
  · rw [h]; rfl

end Byte

/-! ### A whole packet -/

section Packet
variable {s : State} {h : Header} {payload rest : List Byte} {ts : List Turn}

/-- Forty bytes of a header fill the empty window, and the last one has it latched (R80). -/
theorem runs_header (he : enabled s = true) (hp : s.phase = .hunt) (hhb : s.hb = [])
    (hsrc : s.source = headerBytes h ++ rest) (hsch : s.schedule = List.replicate 40 .source ++ ts) :
    Runs 40 s (latchHeader h { s with hb := headerBytes h, source := rest, schedule := ts }) := by
  obtain ⟨init, b, hbytes⟩ := (List.eq_nil_or_concat' (headerBytes h)).resolve_left
    (List.ne_nil_of_length_eq_add_one (headerBytes_length h))
  have hinit : init.length = 39 := by simpa [hbytes] using headerBytes_length h
  have hfill := runs_source (F := fun xs src sch => { s with hb := xs, source := src, schedule := sch }) (bs := init)
    (rest := b :: rest) (ts := .source :: ts)
    fun xs _ _ _ hlt => step_fillsWindow rfl rfl he hp (hinit ▸ hlt)
  have hlast := step_completesHeader (s := { s with hb := init, source := b :: rest, schedule := .source :: ts })
    rfl rfl he hp hinit (by rw [← hbytes]; exact isSync_headerBytes h)
  simp only [← hbytes, headerAt_headerBytes] at hlast
  have hstart : { s with
      hb := [], source := init ++ b :: rest, schedule := List.replicate init.length .source ++ .source :: ts } = s := by
    have hsource : init ++ b :: rest = s.source := by simp [hsrc, hbytes]
    have hschedule : List.replicate init.length .source ++ .source :: ts = s.schedule := by
      simp [hsch, hinit, List.replicate_succ]
    rw [hsource, hschedule, ← hhb]
  have hrun := hstart ▸ hfill.snoc hlast
  rwa [hinit] at hrun

/-- A header whose payload length is legal and not 0 opens the payload (R83, R84). -/
theorem latchHeader_of_accepted (hlen : h.pktLen.toNat = 40 + payload.length) (hne : payload ≠ [])
    (hmax : payload.length ≤ s.params.payloadMax) :
    latchHeader h s = { s with hdr := h, hb := [], resyncCnt := 0#32, pb := [], phase := .payload } := by
  have hpos := List.length_pos_iff.2 hne
  have hok : lengthBad { s with hdr := h, hb := [], resyncCnt := 0#32 } = false := by
    simp [lengthBad, Config.hdrLen, hlen, hmax]
  rw [latchHeader]
  rcases checkLength_cases { s with hdr := h, hb := [], resyncCnt := 0#32 } with ⟨hbad, -⟩ | ⟨-, heq⟩
  · exact absurd hbad (by simp [hok])
  · rw [heq]
    rcases acceptHeader_cases { s with hdr := h, hb := [], resyncCnt := 0#32 } with ⟨h40, -⟩ | ⟨-, heq⟩
    · simp only at h40
      omega
    · rw [heq]

/-- The payload's bytes fill the buffer, and the last one finishes the packet (R88). -/
theorem runs_payload (he : enabled s = true) (hp : s.phase = .payload) (hpb : s.pb = [])
    (hlen : payloadLen s = payload.length) (hne : payload ≠ [])
    (hsrc : s.source = payload ++ rest) (hsch : s.schedule = List.replicate payload.length .source ++ ts) :
    Runs payload.length s (finishPacket { s with pb := payload, source := rest, schedule := ts }) := by
  obtain ⟨init, b, rfl⟩ := (List.eq_nil_or_concat' payload).resolve_left hne
  rw [List.length_append, List.length_singleton] at hlen hsch ⊢
  have hfill := runs_source (F := fun xs src sch => { s with pb := xs, source := src, schedule := sch }) (bs := init)
    (rest := b :: rest) (ts := .source :: ts)
    fun xs _ _ _ hlt => step_fillsPayload rfl rfl he hp (show xs.length + 1 ≠ payloadLen s by omega)
  have hlast := step_completesPacket (s := { s with pb := init, source := b :: rest, schedule := .source :: ts })
    rfl rfl he hp hlen.symm
  have hstart : { s with
      pb := [], source := init ++ b :: rest, schedule := List.replicate init.length .source ++ .source :: ts } = s := by
    have hsource : init ++ b :: rest = s.source := by simp [hsrc]
    have hschedule : List.replicate init.length .source ++ .source :: ts = s.schedule := by
      simp [hsch, List.replicate_succ']
    rw [hsource, hschedule, ← hpb]
  exact hstart ▸ hfill.snoc hlast

/-- A header and its whole payload, offered to an empty window, end in the packet's last step (R77 to R88). -/
theorem runs_packet (he : enabled s = true) (hp : s.phase = .hunt) (hhb : s.hb = [])
    (hlen : h.pktLen.toNat = 40 + payload.length) (hne : payload ≠ []) (hmax : payload.length ≤ s.params.payloadMax)
    (hsrc : s.source = headerBytes h ++ payload ++ rest)
    (hsch : s.schedule = List.replicate (40 + payload.length) .source ++ ts) :
    Runs (40 + payload.length) s (finishPacket { s with
      hdr := h, hb := [], resyncCnt := 0#32, pb := payload, phase := .payload, source := rest, schedule := ts }) := by
  have hheader := runs_header he hp hhb (hsrc.trans (List.append_assoc ..))
    (hsch.trans (by rw [List.replicate_add, List.append_assoc]))
  rw [latchHeader_of_accepted hlen hne (by exact hmax)] at hheader
  exact hheader.trans (runs_payload he rfl rfl (by simp [payloadLen, Config.hdrLen, hlen]) hne rfl rfl)

end Packet

/-! ### A packet whose first TLV header is illegal (R66, R91) -/

theorem loopFrom_of_exit {v : LoopVars} (h : v.exit ≠ .running) (e : LoopEnv) (n : Nat) : loopFrom e n v = v := by
  cases n with
  | zero => rfl
  | succ n => rw [loopFrom, if_neg h]

/-- The loop stops at its first turn. -/
theorem tlvLoop_of_first_long {e : LoopEnv} {t len : Word} (hT : 0 < e.T) (hP : 8 ≤ e.P) (ht : le32 e.pb 0 = t)
    (hl : le32 e.pb 4 = len) (hlen : 10000 < len.toNat) : tlvLoop e = leaveBad t len LoopVars.start := by
  have hfetch : fetchTlv e LoopVars.start = .invalidLen t len := by
    rw [fetchTlv, show LoopVars.start.c = 0 from rfl, ht, hl, decodeTlv, if_pos hlen]
  have hturn : loopTurn e LoopVars.start = leaveBad t len LoopVars.start := by
    rw [loopTurn, if_pos (by exact hT), if_neg (by exact Nat.not_lt.2 hP), hfetch, runTlv]
  rw [tlvLoop, loopFrom, if_pos (by rfl), hturn, loopFrom_of_exit (by simp [leaveBad])]

theorem finishPacket_of_discarded {s : State} {i : Nat} {t len : Word}
    (h : (tlvLoop (loopEnv s)).exit = .discarded i t len) :
    finishPacket s = { applyDiscard (wrap32 i) t len s with loop := LoopVars.start } := by
  simp only [finishPacket, applyExit, h]

/-! ### The packet of R98 -/

/-- The items of the packet of R98: a TLV of objects and a TLV of signals. -/
def roundTripItems (os : List ObjRec) (gs : List SigRec) : List PacketItem :=
  [.tlv 1#32 (BitVec.ofNat 32 (16 * os.length))] ++ os.map .obj ++
    [.tlv 7#32 (BitVec.ofNat 32 (4 * os.length))] ++ gs.map .sig

/-- Their bytes. -/
def roundTripPayload (os : List ObjRec) (gs : List SigRec) : List Byte :=
  (roundTripItems os gs).flatMap PacketItem.bytes

theorem roundTripPayload_eq (os : List ObjRec) (gs : List SigRec) :
    roundTripPayload os gs = bytes32 1#32 ++ (bytes32 (BitVec.ofNat 32 (16 * os.length)) ++ (os.flatMap objBytes ++
      (bytes32 7#32 ++ (bytes32 (BitVec.ofNat 32 (4 * os.length)) ++ gs.flatMap sigBytes)))) := by
  simp [roundTripPayload, roundTripItems, PacketItem.bytes, pseudoTlv, List.flatMap_append, List.flatMap_map]

theorem roundTripPayload_length (os : List ObjRec) (gs : List SigRec) :
    (roundTripPayload os gs).length = 16 + 16 * os.length + 4 * gs.length := by
  rw [roundTripPayload_eq]
  simp [List.length_flatMap]
  omega

theorem countP_isTlv_roundTripItems (os : List ObjRec) (gs : List SigRec) :
    (roundTripItems os gs).countP PacketItem.isTlv = 2 := by
  have hobj : PacketItem.isTlv ∘ .obj = fun _ => false := rfl
  have hsig : PacketItem.isTlv ∘ .sig = fun _ => false := rfl
  simp [roundTripItems, List.countP_cons, List.countP_map, hobj, hsig, PacketItem.isTlv]

/-- Its header. -/
def roundTripHeader (os : List ObjRec) (gs : List SigRec) : Header :=
  { version := 0#32, pktLen := wrap32 (40 + (roundTripPayload os gs).length), platform := 0#32, frameNum := 0#32
    timeCpu := 0#32, numObj := wrap32 os.length, numTlv := 2#32, subframe := 0#32 }

theorem pseudoPacket_roundTripItems (os : List ObjRec) (gs : List SigRec) :
    pseudoPacket os.length (roundTripItems os gs) = headerBytes (roundTripHeader os gs) ++ roundTripPayload os gs := by
  rw [pseudoPacket, countP_isTlv_roundTripItems]
  rfl

theorem roundTripHeader_pktLen_toNat {os : List ObjRec} {gs : List SigRec}
    (h : 40 + (roundTripPayload os gs).length < 2 ^ 32) :
    (roundTripHeader os gs).pktLen.toNat = 40 + (roundTripPayload os gs).length := Nat.mod_eq_of_lt h

/-- The state in which the packet's last step runs the TLV loop. -/
def roundTripReceived (os : List ObjRec) (gs : List SigRec) (s : State) : State :=
  { s with
    hdr := roundTripHeader os gs, hb := [], resyncCnt := 0#32, pb := roundTripPayload os gs, phase := .payload
    source := [], schedule := [] }

/-- The packet offered to an empty window runs up to its last step, if its payload fits (R98). -/
theorem runs_roundTripPacket {s : State} {os : List ObjRec} {gs : List SigRec} (hpar : s.params.legal)
    (he : enabled s = true) (hp : s.phase = .hunt) (hhb : s.hb = [])
    (hmax : (roundTripPayload os gs).length ≤ s.params.payloadMax)
    (hsrc : s.source = pseudoPacket os.length (roundTripItems os gs))
    (hsch : s.schedule = List.replicate s.source.length .source) :
    Runs s.source.length s (finishPacket (roundTripReceived os gs s)) := by
  obtain ⟨-, hpmax, -⟩ := hpar
  have hlen := roundTripPayload_length os gs
  have hsource : s.source.length = 40 + (roundTripPayload os gs).length := by
    rw [hsrc, pseudoPacket_roundTripItems, List.length_append, headerBytes_length]
  rw [hsource] at hsch ⊢
  exact runs_packet he hp hhb (roundTripHeader_pktLen_toNat (by omega)) (List.ne_nil_of_length_pos (by omega)) hmax
    (by rw [hsrc, pseudoPacket_roundTripItems, List.append_nil]) (by rw [hsch, List.append_nil])

/-- With more than 625 objects, the loop stops at the first TLV header. -/
theorem tlvLoop_roundTripReceived_of_long {s : State} {os : List ObjRec} {gs : List SigRec}
    (hlen : 40 + (roundTripPayload os gs).length < 2 ^ 32) (hlong : 10000 < 16 * os.length) :
    tlvLoop (loopEnv (roundTripReceived os gs s)) =
      leaveBad 1#32 (BitVec.ofNat 32 (16 * os.length)) LoopVars.start := by
  have hpay := roundTripPayload_length os gs
  have hP : (loopEnv (roundTripReceived os gs s)).P = (roundTripPayload os gs).length := by
    rw [loopEnv, payloadLen, show (roundTripReceived os gs s).hdr = roundTripHeader os gs from rfl,
      roundTripHeader_pktLen_toNat hlen, Nat.add_sub_cancel_left]
  have hpb : (loopEnv (roundTripReceived os gs s)).pb = roundTripPayload os gs := rfl
  refine tlvLoop_of_first_long (show 0 < 2 by decide) (by omega) ?type ?length ?long
  case type => rw [hpb, roundTripPayload_eq, le32_bytes32]
  case length => rw [hpb, roundTripPayload_eq, le32_bytes32_append_add (o := 0) (by simp), le32_bytes32]
  case long => rw [BitVec.toNat_ofNat]; omega

/-- Settles O32: the packet arrives whole, and its last step discards it at the first TLV (R97). -/
theorem longPacketIsDiscarded : Obligations.LongPacketIsDiscarded := by
  rintro s os gs bs ⟨hpar, -⟩ hp hhb he hlen hmax hlong hfit hbs rfl hsch
  have ⟨_, hpmax, _⟩ := hpar
  have hpay := roundTripPayload_length os gs
  have hrun := runs_roundTripPacket (gs := gs) hpar he hp hhb (by omega) hbs hsch
  have hloop := tlvLoop_roundTripReceived_of_long (s := s) (os := os) (gs := gs) (by omega) hlong
  rw [finishPacket_of_discarded (congrArg LoopVars.exit hloop)] at hrun
  exact ⟨_, hrun, rfl, rfl, rfl, rfl, Nat.mod_eq_of_lt hfit, rfl⟩

end Sys2Proof.Machine
end

section
/-! PROOF. The sync word among the offered bytes (spec R59, R60, R79, R86): a 64-bit field is eight bytes in a row, so the sync
check compares eight bytes, and the least candidate offset is the first place where they stand. -/

namespace Sys2Proof

/-! ### Eight bytes in a row (R47) -/

/-- The bytes of the word at an offset are a stretch of the sequence. -/
theorem bytes64_le64_eq_take_drop {s : List Byte} {o : Nat} (h : o + 8 ≤ s.length) :
    bytes64 (le64 s o) = (s.drop o).take 8 := by
  have hlow : (le64 s o).extractLsb' 0 32 = le32 s o := by
    ext i hi
    simp only [le64, BitVec.getElem_extractLsb', BitVec.getLsbD_append]
    grind
  have hhigh : (le64 s o).extractLsb' 32 32 = le32 s (o + 4) := by
    ext i hi
    simp only [le64, BitVec.getElem_extractLsb', BitVec.getLsbD_append]
    grind
  rw [bytes64, hlow, hhigh, bytes32_le32_eq_take_drop (by omega), bytes32_le32_eq_take_drop (by omega), ← List.drop_drop,
    ← List.take_add]

/-- The word at an offset is `w` exactly where the bytes of `w` stand. -/
theorem le64_eq_iff {s : List Byte} {o : Nat} (h : o + 8 ≤ s.length) (w : DWord) :
    le64 s o = w ↔ (s.drop o).take 8 = bytes64 w := by
  rw [← bytes64_le64_eq_take_drop h]
  exact ⟨congrArg bytes64, fun hb => by rw [← le64_bytes64_self (le64 s o), hb, le64_bytes64_self]⟩

/-! ### The sync check (R60, R79) -/

theorem isSync_iff_le64 (s : List Byte) : isSync s = true ↔ le64 s 0 = Config.magic := by simp [isSync]

theorem isSync_iff_take {s : List Byte} (h : 8 ≤ s.length) : isSync s = true ↔ s.take 8 = bytes64 Config.magic := by
  rw [isSync_iff_le64, le64_eq_iff (by omega), List.drop_zero]

theorem bytes64_magic : bytes64 Config.magic = [0x02, 0x01, 0x04, 0x03, 0x06, 0x05, 0x08, 0x07] := by decide

/-- Settles O7: the check is for the eight bytes of MAGIC. -/
theorem syncDetectorComparesEightBytes : Obligations.SyncDetectorComparesEightBytes := by
  intro s h
  rw [isSync_iff_take h, bytes64_magic]

/-! ### The header behind the sync word (R59) -/

/-- The fields of a header lie within its forty bytes. -/
theorem headerAt_append_left {s t : List Byte} (h : 40 ≤ s.length) : headerAt (s ++ t) = headerAt s := by
  simp only [headerAt]
  rw [le32_append_left (by omega), le32_append_left (by omega), le32_append_left (by omega), le32_append_left (by omega),
    le32_append_left (by omega), le32_append_left (by omega), le32_append_left (by omega), le32_append_left (by omega)]

theorem headerAt_take {s : List Byte} (h : 40 ≤ s.length) : headerAt (s.take 40) = headerAt s := by
  rw [← headerAt_append_left (t := s.drop 40) (by simpa using h), List.take_append_drop]

/-- A whole window with the sync word is read as its header (R78, R80). -/
theorem decode_syncWord_of_magic {bs : List Byte} (hlen : bs.length = 40) (hsync : le64 bs 0 = Config.magic) :
    decode .syncWord bs = .ok (.headerLatch (headerAt bs)) := by
  rw [decode, decodeWindow, if_neg (by rw [hlen]; decide), if_pos ((isSync_iff_le64 bs).2 hsync), if_pos hlen]

namespace Machine

/-! ### Candidate offsets (R86) -/

/-- A candidate offset is one whose forty bytes are offered and begin with the sync word. -/
theorem syncAt_iff (bs : List Byte) (p : Nat) :
    syncAt bs p = true ↔ p + 40 ≤ bs.length ∧ (bs.drop p).take 8 = bytes64 Config.magic := by
  simp only [syncAt, Bool.and_eq_true, decide_eq_true_eq]
  exact and_congr_right fun h => le64_eq_iff (by omega) _

/-- The window over the forty bytes at an offset passes the sync check exactly if the offset is a candidate. -/
theorem isSync_window {bs : List Byte} {p : Nat} (h : p + 40 ≤ bs.length) :
    isSync ((bs.drop p).take 40) = syncAt bs p := by
  rw [Bool.eq_iff_iff, isSync_iff_take (by simp; omega), syncAt_iff, List.take_take, Nat.min_eq_left (by omega)]
  exact (and_iff_right h).symm

theorem firstSync_eq_some_iff {bs : List Byte} {p : Nat} :
    firstSync bs = some p ↔ syncAt bs p = true ∧ ∀ q < p, syncAt bs q = false := by
  simp only [firstSync, List.find?_range_eq_some, List.mem_range, Bool.not_eq_true']
  refine and_congr_right fun h => and_iff_right ?_
  have hlen := ((syncAt_iff bs p).1 h).1
  omega

/-- The whole header at the first candidate offset is offered. -/
theorem le_length_of_firstSync {bs : List Byte} {p : Nat} (h : firstSync bs = some p) : p + 40 ≤ bs.length :=
  ((syncAt_iff bs p).1 (firstSync_eq_some_iff.1 h).1).1

theorem syncAt_eq_false_of_firstSync_none {bs : List Byte} (h : firstSync bs = none) (q : Nat) : syncAt bs q = false := by
  rw [firstSync, List.find?_range_eq_none] at h
  rcases Nat.lt_or_ge q bs.length with hq | hq
  · simpa using h q hq
  · exact Bool.eq_false_iff.2 fun hs => by have hlen := ((syncAt_iff bs q).1 hs).1; omega

/-- Below a bound that the first candidate offset, if there is one, does not go under, there is no candidate. -/
theorem syncAt_eq_false_of_lt_firstSync {bs : List Byte} {m q : Nat} (h : ∀ p, firstSync bs = some p → m ≤ p) (hq : q < m) :
    syncAt bs q = false := by
  cases hf : firstSync bs with
  | none => exact syncAt_eq_false_of_firstSync_none hf q
  | some p => exact (firstSync_eq_some_iff.1 hf).2 q (Nat.lt_of_lt_of_le hq (h p hf))

/-! ### Garbage before a header (R87) -/

/-- The sync word's eight bytes differ from each other, so its first one does not come again within it (R60). -/
theorem eq_zero_of_getElem?_bytes64_magic {j : Nat} (hj : j < 8)
    (h : (bytes64 Config.magic)[j]? = some 0x02#8) : j = 0 := by
  have hall : ∀ j < 8, (bytes64 Config.magic)[j]? = some 0x02#8 → j = 0 := by decide
  exact hall j hj h

/-- A sync word that begins in garbage without one would have to reach into the header, where the first byte is the sync
word's first. -/
theorem syncAt_garbage_eq_false {g rest : List Byte} {h : Header} {q : Nat}
    (hg : ∀ p, p + 8 ≤ g.length → le64 g p ≠ Config.magic) (hq : q < g.length) :
    syncAt (g ++ headerBytes h ++ rest) q = false := by
  refine Bool.eq_false_iff.2 fun hs => ?_
  have hword := ((syncAt_iff _ q).1 hs).2
  rw [List.append_assoc, List.drop_append_of_le_length hq.le] at hword
  rcases Nat.lt_or_ge g.length (q + 8) with hover | hin
  · have hlen : (g.drop q).length = g.length - q := List.length_drop
    have hfirst : (bytes64 Config.magic)[g.length - q]? = some 0x02#8 := by
      rw [← hword, List.getElem?_take_of_lt (by omega), List.getElem?_append_right hlen.le, hlen, Nat.sub_self]
      rfl
    have := eq_zero_of_getElem?_bytes64_magic (by omega) hfirst
    omega
  · rw [List.take_append_of_le_length (by simp; omega)] at hword
    exact hg q hin ((le64_eq_iff hin _).2 hword)

theorem firstSync_garbage {g rest : List Byte} {h : Header} (hg : ∀ p, p + 8 ≤ g.length → le64 g p ≠ Config.magic) :
    firstSync (g ++ headerBytes h ++ rest) = some g.length := by
  refine firstSync_eq_some_iff.2 ⟨(syncAt_iff _ _).2 ⟨by simp, ?_⟩, fun q hq => syncAt_garbage_eq_false hg hq⟩
  rw [List.append_assoc, List.drop_left]
  rfl

end Machine
end Sys2Proof
end

section
/-! PROOF. The header window and the resynchronizer, operation by operation (spec R77 to R85, R122): one equation for each case
of the shift, the cap, the length check and the empty packet, and what the packet operations leave of a latched header. -/

namespace Sys2Proof.Machine

variable {s t : State}

/-! ### The operations run alone (R80 to R84) -/

theorem exec_headerLatch (h : Header) (s : State) : exec (.headerLatch h) s = .next (latchHeader h s) := rfl
theorem exec_resyncShift (sync : DWord) (s : State) : exec (.resyncShift sync) s = .next (shiftWindow s) := rfl
theorem exec_resyncCap (s : State) : exec .resyncCap s = .next (checkCap s) := rfl
theorem exec_lenCheck (s : State) : exec .lenCheck s = .next (checkLength s) := rfl
theorem exec_headerAccept (s : State) : exec .headerAccept s = .next (acceptHeader s) := rfl

/-! ### The byte in HUNT (R77, R78) -/

/-- Settles O8: the three cases of a header byte are the three clauses. -/
theorem huntByteFillsOrEvaluatesWindow : Obligations.HuntByteFillsOrEvaluatesWindow := by
  intro b s hp he
  rw [exec_byteInHunt he hp]
  rcases takeHeaderByte_cases b s with ⟨hne, heq⟩ | ⟨hlen, hsync, heq⟩ | ⟨hlen, hsync, heq⟩ <;> rw [heq]
  case inl => exact ⟨fun _ => rfl, fun hlen => absurd hlen hne, fun hlen => absurd hlen hne⟩
  case inr.inl =>
    have hmagic := (isSync_iff_le64 _).1 hsync
    exact ⟨fun hne => absurd hlen hne, fun _ _ => rfl, fun _ hno => absurd hmagic hno⟩
  case inr.inr =>
    have hno : le64 (s.hb ++ [b]) 0 ≠ Config.magic := fun hmagic => by simp [isSync, hmagic] at hsync
    exact ⟨fun hne => absurd hlen hne, fun _ hmagic => absurd hmagic hno, fun _ _ => rfl⟩

/-! ### Without readiness (R44, R85) -/

theorem exec_byteIn_of_not_inReady (h : inReady s = false) (b : Byte) :
    exec (.byteInHunt b) s = .next s ∧ exec (.byteInPayload b) s = .next s := by
  have hno : ∀ {p : Phase}, (p = .hunt ∨ p = .payload) → ¬(enabled s && decide (s.phase = p)) = true := by
    intro p hp hen
    simp only [Bool.and_eq_true, decide_eq_true_eq] at hen
    obtain ⟨hen, rfl⟩ := hen
    exact absurd ((inReady_eq_true_iff s).2 ⟨hen, hp⟩) (by simp [h])
  exact ⟨if_neg (hno (.inl rfl)), if_neg (hno (.inr rfl))⟩

/-- A byte offered to a port that is not ready stays offered. -/
theorem step_source_of_not_inReady {ts : List Turn} (hs : s.schedule = .source :: ts) (h : inReady s = false) :
    step s = .next { s with schedule := ts } := by
  have hw : fetch s = none := by
    cases hb : s.source with
    | nil => exact fetch_of_source_nil hs hb
    | cons b bs => rw [fetch_of_source hs hb, h]; rfl
  rw [step_of_fetch_none hw, passTurn_of_ne_host hs (by decide)]

/-- Settles O13: in each of the three cases the input port is not ready. -/
theorem inputWaitsWithoutReadiness : Obligations.InputWaitsWithoutReadiness := by
  intro s h
  have hready : inReady s = false := by rcases h with h | h | h <;> simp [inReady, h]
  exact ⟨exec_byteIn_of_not_inReady hready, fun ts hs => step_source_of_not_inReady hs hready⟩

/-! ### The resync shift and the cap (R81, R82) -/

theorem capReached_iff (s : State) :
    capReached s = true ↔ s.resyncLimit ≠ 0#32 ∧ s.resyncLimit.toNat ≤ s.resyncCnt.toNat := by
  simp [capReached]

theorem checkCap_of_reached (h : capReached s = true) :
    checkCap s = { s with phase := .halt, events := s.events ||| Event.desync.mask } := if_pos h

theorem checkCap_of_not_reached (h : ¬capReached s = true) : checkCap s = s := if_neg h

/-- What the shift does before the cap is checked. -/
def shifted (s : State) : State :=
  { s with
    hb := s.hb.tail, resyncCnt := sat32 (s.resyncCnt.toNat + 1), events := s.events ||| Event.syncFail.mask }

theorem shiftWindow_eq (s : State) : shiftWindow s = checkCap (shifted s) := rfl

theorem syncFail_mask : Event.syncFail.mask = 0x002#9 := by decide
theorem desync_mask : Event.desync.mask = 0x010#9 := by decide

/-- Settles O10: the shift is `shifted` and then the cap, so both halves are the two cases of the cap. -/
theorem resyncShiftAndCap : Obligations.ResyncShiftAndCap := by
  refine ⟨fun sync s => ⟨fun h => ?shiftHalts, fun h => ?shiftGoesOn⟩, fun s => ⟨fun h => ?capHalts, fun h => ?capGoesOn⟩⟩
  case shiftHalts =>
    have hmask : (s.events ||| 0x002#9) ||| 0x010#9 = s.events ||| 0x012#9 := BitVec.or_assoc ..
    rw [exec_resyncShift, shiftWindow_eq,
      checkCap_of_reached ((capReached_iff (shifted s)).2 h), shifted, syncFail_mask, desync_mask, hmask]
    rfl
  case shiftGoesOn =>
    rw [exec_resyncShift, shiftWindow_eq,
      checkCap_of_not_reached (mt (capReached_iff (shifted s)).1 h), shifted, syncFail_mask]
    rfl
  case capHalts =>
    rw [exec_resyncCap, checkCap_of_reached ((capReached_iff s).2 h), desync_mask]
  case capGoesOn =>
    rw [exec_resyncCap, checkCap_of_not_reached (mt (capReached_iff s).1 h)]

/-! ### The latch and what it keeps (R80, R83) -/

/-- The header registers and the count are those of `s`, and an empty window stays empty. -/
structure KeepsLatch (s t : State) : Prop where
  hdr : t.hdr = s.hdr
  resyncCnt : t.resyncCnt = s.resyncCnt
  hb : s.hb = [] → t.hb = []

theorem keepsLatch_enterDiscard (e : Event) (code : BitVec 7) (s : State) : KeepsLatch s (enterDiscard e code s) :=
  ⟨rfl, rfl, fun _ => rfl⟩

theorem keepsLatch_applyCommit (os : List ObjRec) (gs : List SigRec) (sh ov : Bool) (s : State) :
    KeepsLatch s (applyCommit os gs sh ov s) := by
  have hrecord : KeepsLatch s (commitRecord os gs sh ov s) := ⟨by simp, by simp, by simp⟩
  rcases applyCommit_cases os gs sh ov s with ⟨-, h⟩ | ⟨-, h⟩ <;> rw [h] <;> exact { hrecord with }

theorem keepsLatch_finishPacket (s : State) : KeepsLatch s (finishPacket s) := by
  rcases finishPacket_cases s with ⟨i, t, len, h⟩ | h <;> rw [h]
  · exact { keepsLatch_enterDiscard .tlvBad outcomeTlvBad s with }
  · exact { keepsLatch_applyCommit _ _ _ _ s with }

theorem keepsLatch_acceptHeader (s : State) : KeepsLatch s (acceptHeader s) := by
  rcases acceptHeader_cases s with ⟨-, h⟩ | ⟨-, h⟩ <;> rw [h]
  · exact { keepsLatch_finishPacket { s with pb := [] } with }
  · exact ⟨rfl, rfl, id⟩

theorem keepsLatch_checkLength (s : State) : KeepsLatch s (checkLength s) := by
  rcases checkLength_cases s with ⟨-, h⟩ | ⟨-, h⟩ <;> rw [h]
  · exact keepsLatch_enterDiscard .lenBad outcomeLenBad s
  · exact keepsLatch_acceptHeader s

/-- Whatever becomes of the packet, its header is latched, the window empty and the count cleared (R80). -/
theorem latchHeader_latches (h : Header) (s : State) :
    (latchHeader h s).hdr = h ∧ (latchHeader h s).hb = [] ∧ (latchHeader h s).resyncCnt = 0#32 := by
  have hkeep := keepsLatch_checkLength { s with hdr := h, hb := [], resyncCnt := 0#32 }
  exact ⟨hkeep.hdr, hkeep.hb rfl, hkeep.resyncCnt⟩

/-- Settles O9: the window is read field by field, and whatever LEN_CHECK does, it keeps what the latch has set. -/
theorem headerLatchThenLengthCheck : Obligations.HeaderLatchThenLengthCheck :=
  ⟨fun _ hlen hsync => decode_syncWord_of_magic hlen hsync,
   fun h s => ⟨rfl, latchHeader h s, exec_headerLatch h s, latchHeader_latches h s⟩⟩

/-! ### The length check (R83) -/

theorem lengthBad_iff (s : State) :
    lengthBad s = true ↔ s.hdr.pktLen.toNat < 40 ∨ s.params.payloadMax < s.hdr.pktLen.toNat - 40 := by
  simp [lengthBad, Config.hdrLen]

/-- With nothing collected or staged, the discard of R83 changes only the registers that it names (log entry 14). -/
theorem enterDiscard_lenBad_of_empty (hhb : s.hb = []) (hpb : s.pb = []) (hobj : s.obj = []) (hsig : s.sig = []) :
    enterDiscard .lenBad outcomeLenBad s =
      { s with
        events := s.events ||| 0x008#9, discardCnt := s.discardCnt + 1#32, lastOutcome := 3#7
        lastObjLen := 0#32, lastSigLen := 0#32, lastRows := 0#32, phase := .hunt } := by
  have hmask : Event.lenBad.mask = 0x008#9 := by decide
  rw [← hmask, ← wrap32_toNat_succ]
  cases s
  cases hhb
  cases hpb
  cases hobj
  cases hsig
  rfl

/-- Settles O11: the two cases of the length check. -/
theorem lengthCheckDiscardsOrAccepts : Obligations.LengthCheckDiscardsOrAccepts := by
  intro s hhb hpb hobj hsig
  rw [exec_lenCheck, exec_headerAccept, ← lengthBad_iff]
  rcases checkLength_cases s with ⟨hbad, heq⟩ | ⟨hok, heq⟩ <;> rw [heq]
  · exact ⟨fun _ => by rw [enterDiscard_lenBad_of_empty hhb hpb hobj hsig], fun hok => absurd hbad hok⟩
  · exact ⟨fun hbad => by simp [hok] at hbad, fun _ => ⟨rfl, _, rfl, (keepsLatch_acceptHeader s).hdr⟩⟩

/-! ### The accepted header (R84) -/

/-- With no payload the first TLV header, if one is declared, is cut short. -/
theorem tlvLoop_of_empty {e : LoopEnv} (hP : e.P = 0) :
    tlvLoop e = { LoopVars.start with short := decide (0 < e.T), exit := .committed } := by
  have hturn : loopTurn e LoopVars.start = { LoopVars.start with short := decide (0 < e.T), exit := .committed } := by
    unfold loopTurn
    by_cases hT : 0 < e.T
    · rw [if_pos (by exact hT), if_pos (by simp [hP]), decide_eq_true hT]; rfl
    · rw [if_neg (by exact hT), decide_eq_false hT]; rfl
  rw [tlvLoop, loopFrom, if_pos (by rfl), hturn, loopFrom_of_exit (by simp)]

/-- An empty packet commits without a row, and SHORT if TLVs were declared. -/
theorem finishPacket_of_empty (hlen : s.hdr.pktLen.toNat = 40) :
    finishPacket s = { clearEmission (commitRecord [] [] (decide (0 < s.hdr.numTlv.toNat)) false s) with
      loop := LoopVars.start } := by
  have hloop := tlvLoop_of_empty (e := loopEnv s) (by simp [loopEnv, payloadLen, hlen])
  rw [finishPacket, applyExit, hloop]
  rfl

/-- Settles O12: the two cases of the accepted header, and for the empty packet the two cases of its declared TLVs. -/
theorem headerAcceptCollectsOrCommits : Obligations.HeaderAcceptCollectsOrCommits := by
  intro s
  rw [exec_headerAccept]
  rcases acceptHeader_cases s with ⟨hlen, heq⟩ | ⟨hne, heq⟩ <;> rw [heq]
  · refine ⟨fun hne => absurd hlen hne, fun _ => congrArg _ ?_⟩
    rw [finishPacket_of_empty (by exact hlen), ← wrap32_toNat_succ, ← wrap32_toNat_succ]
    by_cases hT : s.hdr.numTlv = 0#32
    · rw [decide_eq_false (by simp [hT]), if_pos hT, if_pos hT]
      rfl
    · have hpos : 0 < s.hdr.numTlv.toNat := by bv_omega
      have hmask : s.events ||| Event.frame.mask ||| Event.short.mask = s.events ||| 0x041#9 := BitVec.or_assoc ..
      rw [decide_eq_true hpos, if_neg hT, if_neg hT, ← hmask]
      rfl
  · exact ⟨fun _ => rfl, fun hlen => absurd hlen hne⟩

/-! ### The way out of HALT (R122) -/

/-- Of the commands only RESTART, ABORT and SOFT_RESET lead out of HALT. -/
theorem runCommand_leaves_halt {c : CmdOp} (hp : s.phase = .halt) (ht : (runCommand c s).phase ≠ .halt) :
    c = .restart ∨ c = .abort ∨ c = .softReset := by
  cases c with
  | restart => exact .inl rfl
  | abort => exact .inr (.inl rfl)
  | softReset => exact .inr (.inr rfl)
  | nop | clearStats | illegal w => exact absurd hp ht

/-- A step that leaves HALT ran one of these operations. -/
theorem StepEffect.leaves_halt {o : Option Instr} (h : StepEffect s o t) (hp : s.phase = .halt) (ht : t.phase ≠ .halt) :
    ∃ i, o = some i ∧ (i = .restart ∨ i = .abort ∨ i = .softReset ∨ i = .reset) := by
  cases h with
  | idle => exact absurd hp ht
  | headerByte b bs ts hts hbs hen hph | payloadByte b bs ts hts hbs hen hph | row ts hph => cases hp.symm.trans hph
  | reset ts => exact ⟨_, rfl, .inr (.inr (.inr rfl))⟩
  | host ts ops heff =>
    refine ⟨_, rfl, ?_⟩
    cases heff with
    | answer | ctrl | events | irqEn | cycleId | resyncLimit => exact absurd hp ht
    | command c =>
      rcases runCommand_leaves_halt (s := { s with schedule := ts, script := ops }) hp ht with rfl | rfl | rfl
      · exact .inl rfl
      · exact .inr (.inl rfl)
      · exact .inr (.inr (.inl rfl))

/-- Every step is idle, or does what the operation of its transaction does. -/
theorem step_effect_of_transaction (h : step s = .next t) :
    StepEffect s none t ∨
    ∃ w i, fetch s = some w ∧ decode w.format w.bytes = .ok i ∧ StepEffect s (some i) t := by
  cases hw : fetch s with
  | none => exact .inl (stepEffect_of_fetch_none hw h)
  | some w =>
    obtain ⟨i, hi⟩ := Laws.fetch_decodes hw
    exact .inr ⟨w, i, rfl, hi, stepEffect_of_decode hw hi h⟩

/-- Settles O16: an idle step does not leave HALT, and a transaction that does ran one of the four. -/
theorem onlyTheHostLeavesHalt : Obligations.OnlyTheHostLeavesHalt := by
  intro s t hp h ht
  rcases step_effect_of_transaction h with heff | ⟨w, i, hw, hi, heff⟩
  · obtain ⟨_, hnone, -⟩ := heff.leaves_halt hp ht
    cases hnone
  · obtain ⟨_, hsome, hleaves⟩ := heff.leaves_halt hp ht
    cases hsome
    exact ⟨w, i, hw, hi, hleaves⟩

end Sys2Proof.Machine
end

section
/-! PROOF. The search for a header (spec R76 to R87, R133): the state after `n` offered bytes without a match in it and below the
cap, by induction on `n`; then the byte that latches the first candidate, or the one whose mismatch the cap halts on. -/

namespace Sys2Proof.Machine

/-! ### The saturating count (R9, R81) -/

theorem sat32_toNat (n : Nat) : (sat32 n).toNat = min n (2 ^ 32 - 1) := by
  rw [sat32, BitVec.toNat_ofNat]
  omega

theorem sat32_toNat_self (w : Word) : sat32 w.toNat = w := by
  refine BitVec.eq_of_toNat_eq ?_
  rw [sat32_toNat]
  omega

/-- Counting on from a saturated count is counting on, saturated. -/
theorem sat32_succ_sat32 (n : Nat) : sat32 ((sat32 n).toNat + 1) = sat32 (n + 1) := by
  refine BitVec.eq_of_toNat_eq ?_
  rw [sat32_toNat, sat32_toNat, sat32_toNat]
  omega

/-- The saturation hides no limit: a limit is a 32-bit word itself. -/
theorem toNat_le_sat32_toNat_iff (w : Word) (n : Nat) : w.toNat ≤ (sat32 n).toNat ↔ w.toNat ≤ n := by
  rw [sat32_toNat]
  omega

/-! ### One mismatch (R78, R81) -/

theorem step_shiftsWindow {s : State} {b : Byte} {bs : List Byte} {ts : List Turn} (hs : s.schedule = .source :: ts)
    (hb : s.source = b :: bs) (he : enabled s = true) (hp : s.phase = .hunt) (hfill : s.hb.length = 39)
    (hno : isSync (s.hb ++ [b]) = false) :
    step s = .next (shiftWindow { s with hb := s.hb ++ [b], source := bs, schedule := ts }) := by
  rw [step_source_hunt hs hb he hp, exec_byteInHunt (by exact he) (by exact hp)]
  rcases takeHeaderByte_cases b { s with source := bs, schedule := ts } with ⟨hlen, -⟩ | ⟨-, hsync, -⟩ | ⟨-, -, h⟩
  · exact absurd hfill hlen
  · exact absurd hsync (by simp [hno])
  · rw [h]; rfl

/-! ### The state after `n` bytes -/

/-- `s` after `n` of the bytes offered in it, none latched: the last 39 of them in the window, and a mismatch counted for
each one before those (R77, R81). -/
def searched (s : State) (n : Nat) : State :=
  { s with
    hb := (s.source.take n).drop (n - 39)
    resyncCnt := sat32 (s.resyncCnt.toNat + (n - 39))
    events := if n ≤ 39 then s.events else s.events ||| Event.syncFail.mask
    source := s.source.drop n
    schedule := s.schedule.drop n }

/-- The mismatch, counted from `s` on, on which the cap halts if there is one (R82, R133). -/
def capMismatch (s : State) : Nat := max 1 (s.resyncLimit.toNat - s.resyncCnt.toNat)

theorem capMismatch_pos (s : State) : 0 < capMismatch s := Nat.le_max_left 1 _

variable {s : State} {n k p : Nat}

theorem capReached_searched_iff :
    capReached (searched s (k + 40)) = true ↔ s.resyncLimit ≠ 0#32 ∧ capMismatch s ≤ k + 1 := by
  rw [capReached_iff, searched, toNat_le_sat32_toNat_iff, capMismatch]
  refine and_congr_right fun _ => ?_
  simp only
  omega

theorem searched_zero (hhb : s.hb = []) : searched s 0 = s := by
  simp [searched, ← hhb, sat32_toNat_self]

theorem searched_hb_length (hn : n ≤ s.source.length) : (searched s n).hb.length = min n 39 := by
  simp [searched]
  omega

theorem searched_hb_of_ge (s : State) (k : Nat) : (searched s (k + 39)).hb = (s.source.drop k).take 39 := by
  simp [searched, List.drop_take]

theorem searched_resyncCnt (s : State) (k : Nat) :
    (searched s (k + 39)).resyncCnt = sat32 (s.resyncCnt.toNat + k) := by
  rw [searched, Nat.add_sub_cancel]

theorem pending_syncFail_searched (hn : 39 < n) : pending (searched s n) .syncFail = true := by
  have hevents : (searched s n).events = (raise .syncFail s).events := if_neg (by omega)
  rw [pending_congr hevents, pending_raise, decide_eq_true rfl, Bool.or_true]

theorem searched_source (hn : n < s.source.length) :
    (searched s n).source = s.source[n] :: s.source.drop (n + 1) := List.drop_eq_getElem_cons hn

theorem searched_schedule (hsch : s.schedule = List.replicate s.source.length .source) (hn : n < s.source.length) :
    (searched s n).schedule = .source :: s.schedule.drop (n + 1) := by
  have hn' : n < s.schedule.length := by simpa [hsch] using hn
  have hturn : s.schedule[n] = .source := by simp [hsch]
  rw [← hturn]
  exact List.drop_eq_getElem_cons hn'

theorem searched_hb_push (hn : n < s.source.length) :
    (searched s n).hb ++ [s.source[n]] = (s.source.take (n + 1)).drop (n - 39) := by
  rw [← List.take_append_getElem hn, List.drop_append_of_le_length (by simp; omega)]
  rfl

/-- The byte after 39 or more completes the window over the forty bytes that end with it. -/
theorem searched_window (hk : k + 40 ≤ s.source.length) :
    (searched s (k + 39)).hb ++ [s.source[k + 39]] = (s.source.drop k).take 40 := by
  rw [searched_hb_push (by omega), Nat.add_sub_cancel, List.drop_take]
  congr 1
  omega

/-- The shift drops the oldest of forty bytes and counts one mismatch more (R81). -/
theorem shifted_searched (s : State) (k : Nat) :
    shifted { searched s (k + 39) with
      hb := (s.source.take (k + 40)).drop k
      source := s.source.drop (k + 40), schedule := s.schedule.drop (k + 40) } = searched s (k + 40) := by
  have hcnt : sat32 ((sat32 (s.resyncCnt.toNat + k)).toNat + 1) = sat32 (s.resyncCnt.toNat + (k + 1)) :=
    sat32_succ_sat32 _
  have hevents : (if k = 0 then s.events else s.events ||| Event.syncFail.mask) ||| Event.syncFail.mask =
      s.events ||| Event.syncFail.mask := by
    split
    · rfl
    · rw [BitVec.or_assoc, BitVec.or_self]
  simp [shifted, searched, hcnt, hevents]

/-! ### One byte of the search -/

section Search
variable (he : enabled s = true) (hp : s.phase = .hunt) (hsch : s.schedule = List.replicate s.source.length .source)
include he hp hsch

theorem step_searched_of_lt (hn : n < s.source.length) (hfill : n < 39) : step (searched s n) = .next (searched s (n + 1)) := by
  rw [step_fillsWindow (searched_schedule hsch hn) (searched_source hn) he hp
    (by rw [searched_hb_length hn.le]; omega), searched_hb_push hn]
  simp [searched, show n - 39 = 0 by omega, show n + 1 - 39 = 0 by omega, show n ≤ 39 by omega, show n + 1 ≤ 39 by omega]

/-- A window that is no candidate counts as a mismatch, and the cap is checked. -/
theorem step_searched_of_mismatch (hk : k + 40 ≤ s.source.length) (hno : syncAt s.source k = false) :
    step (searched s (k + 39)) = .next (checkCap (searched s (k + 40))) := by
  rw [step_shiftsWindow (searched_schedule hsch (by omega)) (searched_source (by omega)) he hp
    (by rw [searched_hb_length (by omega)]; omega) (by rw [searched_window hk, isSync_window hk, hno]),
    searched_hb_push (by omega), Nat.add_sub_cancel, shiftWindow_eq, shifted_searched]

/-- A window that is a candidate is latched; the bytes after it stay offered. -/
theorem step_searched_of_match (hsync : syncAt s.source p = true) :
    ∃ u, step (searched s (p + 39)) = .next u ∧ u.hdr = headerAt (s.source.drop p) ∧ u.hb = [] ∧ u.resyncCnt = 0#32 ∧
      u.source = s.source.drop (p + 40) := by
  have hk : p + 40 ≤ s.source.length := ((syncAt_iff _ _).1 hsync).1
  have hlast : p + 39 < s.source.length := hk
  have hstep := step_completesHeader (searched_schedule hsch hlast) (searched_source hlast) he hp
    (by rw [searched_hb_length hlast.le]; omega) (by rw [searched_window hk, isSync_window hk, hsync])
  rw [searched_window hk, headerAt_take (by simp; omega)] at hstep
  obtain ⟨hhdr, hhb, hcnt⟩ := latchHeader_latches (headerAt (s.source.drop p)) _
  exact ⟨_, hstep, hhdr, hhb, hcnt, (packetFrame_latchHeader (headerAt (s.source.drop p)) _).source⟩

/-! ### The search -/

variable (hhb : s.hb = [])
include hhb

/-- While no window matches and the cap does not halt, `n` steps lead to the state after `n` bytes. -/
theorem runs_searched (hn : n ≤ s.source.length) (hno : ∀ q < n - 39, syncAt s.source q = false)
    (hcap : s.resyncLimit = 0#32 ∨ n - 39 < capMismatch s) : Runs n s (searched s n) := by
  induction n with
  | zero => rw [searched_zero hhb]; exact .zero s
  | succ n ih =>
    have hrun : Runs n s (searched s n) :=
      ih (by omega) (fun q hq => hno q (by omega)) (hcap.imp_right fun h => by omega)
    rcases Nat.lt_or_ge n 39 with hfill | hfull
    · exact hrun.snoc (step_searched_of_lt he hp hsch hn hfill)
    · obtain ⟨k, rfl⟩ := Nat.exists_eq_add_of_le' hfull
      have hstep := step_searched_of_mismatch he hp hsch hn (hno k (by omega))
      have hbelow : ¬capReached (searched s (k + 40)) = true := by
        rw [capReached_searched_iff]
        rintro ⟨hlimit, hreached⟩
        have := hcap.resolve_left hlimit
        omega
      rw [checkCap_of_not_reached hbelow] at hstep
      exact hrun.snoc hstep

/-- Nothing is latched before the fortieth byte of the first candidate, and each byte before it is one mismatch. -/
theorem runs_before_latch (hfirst : firstSync s.source = some p) (hcap : s.resyncLimit = 0#32 ∨ p < capMismatch s) :
    Runs (p + 39) s (searched s (p + 39)) := by
  obtain ⟨-, hno⟩ := firstSync_eq_some_iff.1 hfirst
  have hlen := le_length_of_firstSync hfirst
  exact runs_searched he hp hsch hhb (by omega) (fun q hq => hno q (by omega)) (hcap.imp_right fun h => by omega)

theorem runs_latch (hfirst : firstSync s.source = some p) (hcap : s.resyncLimit = 0#32 ∨ p < capMismatch s) :
    ∃ u, Runs (p + 40) s u ∧ u.hdr = headerAt (s.source.drop p) ∧ u.hb = [] ∧ u.resyncCnt = 0#32 ∧
      u.source = s.source.drop (p + 40) := by
  obtain ⟨u, hstep, hlatched⟩ := step_searched_of_match he hp hsch (firstSync_eq_some_iff.1 hfirst).1
  exact ⟨u, (runs_before_latch he hp hsch hhb hfirst hcap).snoc hstep, hlatched⟩

/-- The mismatch that reaches the cap halts the search, and none before it does. -/
theorem runs_halt (hlimit : s.resyncLimit ≠ 0#32) (hlen : capMismatch s + 39 ≤ s.source.length)
    (hno : ∀ q < capMismatch s, syncAt s.source q = false) :
    Runs (capMismatch s + 38) s (searched s (capMismatch s + 38)) ∧
      Runs (capMismatch s + 39) s (raise .desync { searched s (capMismatch s + 39) with phase := .halt }) := by
  obtain ⟨k, hm⟩ : ∃ k, capMismatch s = k + 1 := Nat.exists_eq_add_of_le' (capMismatch_pos s)
  rw [hm] at hlen hno ⊢
  have hrun := runs_searched he hp hsch hhb (n := k + 39) (by omega) (fun q hq => hno q (by omega)) (.inr (by omega))
  have hstep := step_searched_of_mismatch he hp hsch hlen (hno k (by omega))
  rw [checkCap_of_reached (capReached_searched_iff.2 ⟨hlimit, hm.le⟩)] at hstep
  exact ⟨hrun, hrun.snoc hstep⟩

end Search

/-! ### The statements -/

/-- Settles O14, clause by clause: the bytes run out, the first candidate is latched, or the cap halts. -/
theorem searchLatchesTheFirstMatch : Obligations.SearchLatchesTheFirstMatch := by
  rintro s bs hp hhb he rfl hsch
  refine ⟨fun hnone hcap => ?runsOut, fun p hfirst hcap => ?latches, fun hlimit hlen hfirst => ?halts⟩
  case runsOut =>
    exact ⟨_, runs_searched he hp hsch hhb le_rfl (fun q _ => syncAt_eq_false_of_firstSync_none hnone q) hcap, hp, rfl,
      searched_hb_length le_rfl, List.drop_length⟩
  case latches =>
    have hlen := le_length_of_firstSync hfirst
    refine ⟨⟨_, runs_before_latch he hp hsch hhb hfirst hcap, hp, rfl, ?_, ?_⟩, runs_latch he hp hsch hhb hfirst hcap⟩
    · rw [searched_hb_length (by omega)]
      omega
    · exact searched_resyncCnt s p
  case halts =>
    obtain ⟨hbefore, hhalt⟩ := runs_halt he hp hsch hhb hlimit hlen
      fun q hq => syncAt_eq_false_of_lt_firstSync hfirst hq
    refine ⟨⟨_, hbefore, hp⟩, _, hhalt, rfl, rfl, searched_hb_of_ge s _, searched_resyncCnt s _, ?_, ?_, rfl⟩
    · simp [pending_raise]
    · exact pending_raise_of_pending .syncFail (pending_syncFail_searched (Nat.lt_add_of_pos_left (capMismatch_pos s)))

/-- Settles O15: the first candidate is the header behind the garbage. -/
theorem garbageOnlyDelaysTheHeader : Obligations.GarbageOnlyDelaysTheHeader := by
  intro g rest h hg
  have hfirst := firstSync_garbage (h := h) (rest := rest) hg
  refine ⟨hfirst, fun s hp hhb he hlimit hsrc hsch => ?_⟩
  rw [← hsrc] at hfirst
  have hcap : s.resyncLimit = 0#32 ∨ g.length < capMismatch s := hlimit.imp_right fun h => by rw [capMismatch]; omega
  have hsch' : s.schedule = List.replicate s.source.length .source := by simp [hsch, hsrc, Nat.add_assoc]
  obtain ⟨u, hrun, hhdr, hhb', hcnt, hsource⟩ := runs_latch he hp hsch' hhb hfirst hcap
  refine ⟨⟨_, runs_before_latch he hp hsch' hhb hfirst hcap, hp, rfl, ?_⟩, u, hrun, hhdr.trans ?_, hhb', hcnt,
    hsource.trans ?_⟩
  · exact searched_resyncCnt s _
  · rw [hsrc, List.append_assoc, List.drop_left, headerAt_append_left (by simp), headerAt_headerBytes]
  · rw [hsrc]
    exact List.drop_left' (by simp)

end Sys2Proof.Machine
end

section
/-! PROOF. The operations of the TLV demultiplexer one by one (spec R90 to R97): what an append, a block of records, a skip and
a TLV header at the cursor make of the loop's variables, one equation for each case. -/

namespace Sys2Proof.Machine

/-! ### The operations run alone (R90 to R97) -/

section Exec
variable (s : State) (t len : Word)

theorem exec_tlvPosvel : exec (.tlvPosvel len) s = .next { s with loop := posvelBody (loopEnv s) s.loop } := rfl
theorem exec_tlvSignal : exec (.tlvSignal len) s = .next { s with loop := signalBody (loopEnv s) s.loop } := rfl
theorem exec_tlvSkip : exec (.tlvSkip t len) s = .next { s with loop := skipBody (loopEnv s) len s.loop } := rfl
theorem exec_tlvInvalid : exec (.tlvInvalid t len) s = .next { s with loop := leaveBad t len s.loop } := rfl
theorem exec_tlvInvalidLen : exec (.tlvInvalidLen t len) s = .next { s with loop := leaveBad t len s.loop } := rfl
theorem exec_tlvHdrShort : exec .tlvHdrShort s = .next { s with loop := leaveShort s.loop } := rfl
theorem exec_stageAppend (r : StagedRec) :
    exec (.stageAppend r) s = .next { s with loop := appendStaged s.params.maxObj r s.loop } := rfl
theorem exec_tlvLoop : exec .tlvLoop s = .next { s with loop := tlvLoop (loopEnv s) } := rfl
theorem exec_discard (i : Word) : exec (.discard i t len) s = .next (applyDiscard i t len s) := rfl
theorem exec_commit (os : List ObjRec) (gs : List SigRec) (sh ov : Bool) :
    exec (.commit os gs sh ov) s = .next (applyCommit os gs sh ov s) := rfl

end Exec

/-! ### One record (R95) -/

section Append
variable {m : Nat} {v : LoopVars}

theorem appendObj_of_lt (h : v.objs.length < m) (r : ObjRec) : appendObj m r v = { v with objs := v.objs ++ [r] } := if_pos h

theorem appendObj_of_ge (h : m ≤ v.objs.length) (r : ObjRec) : appendObj m r v = { v with ovf := true } :=
  if_neg (Nat.not_lt.2 h)

theorem appendSig_of_lt (h : v.sigs.length < m) (r : SigRec) : appendSig m r v = { v with sigs := v.sigs ++ [r] } := if_pos h

theorem appendSig_of_ge (h : m ≤ v.sigs.length) (r : SigRec) : appendSig m r v = { v with ovf := true } :=
  if_neg (Nat.not_lt.2 h)

end Append

/-- Settles O22: the two cases of the append, for each array. -/
theorem appendDropsPastCapacity : Obligations.AppendDropsPastCapacity := by
  intro s
  refine ⟨fun r h => ?_, fun r h => ?_, fun r h => ?_, fun r h => ?_⟩ <;> rw [exec_stageAppend, appendStaged]
  · rw [appendObj_of_lt h]
  · rw [appendObj_of_ge h]
  · rw [appendSig_of_lt h]
  · rw [appendSig_of_ge h]

/-! ### A block of records (R92, R93) -/

section Kept
variable {α : Type} {m : Nat} {xs recs : List α}

/-- The array `xs` after `recs` were appended one by one to it, as far as `m` records (R95). -/
def keptUpTo (m : Nat) (xs recs : List α) : List α := xs ++ recs.take (m - xs.length)

theorem keptUpTo_nil (m : Nat) (xs : List α) : keptUpTo m xs [] = xs := by simp [keptUpTo]

theorem keptUpTo_length (h : xs.length ≤ m) : (keptUpTo m xs recs).length = min m (xs.length + recs.length) := by
  simp [keptUpTo]
  omega

theorem keptUpTo_of_le (h : xs.length + recs.length ≤ m) : keptUpTo m xs recs = xs ++ recs := by
  rw [keptUpTo, List.take_of_length_le (by omega)]

theorem keptUpTo_snoc_of_lt (h : xs.length + recs.length < m) (r : α) :
    keptUpTo m xs (recs ++ [r]) = keptUpTo m xs recs ++ [r] := by
  rw [keptUpTo_of_le h.le, keptUpTo_of_le (by simp; omega), List.append_assoc]

theorem keptUpTo_snoc_of_ge (h : m ≤ xs.length + recs.length) (r : α) :
    keptUpTo m xs (recs ++ [r]) = keptUpTo m xs recs := by
  rw [keptUpTo, List.take_append_of_le_length (by omega), keptUpTo]

end Kept

/-- The `k` ObjectRecords from `base` on (R92). -/
def objsAt (bs : List Byte) (base k : Nat) : List ObjRec := (List.range k).map fun j => objAt bs (base + 16 * j)

/-- The `k` SignalRecords from `base` on (R93). -/
def sigsAt (bs : List Byte) (base k : Nat) : List SigRec := (List.range k).map fun j => sigAt bs (base + 4 * j)

@[simp] theorem objsAt_length (bs : List Byte) (base k : Nat) : (objsAt bs base k).length = k := by simp [objsAt]
@[simp] theorem sigsAt_length (bs : List Byte) (base k : Nat) : (sigsAt bs base k).length = k := by simp [sigsAt]

theorem objsAt_succ (bs : List Byte) (base k : Nat) :
    objsAt bs base (k + 1) = objsAt bs base k ++ [objAt bs (base + 16 * k)] := by simp [objsAt, List.range_succ]

theorem sigsAt_succ (bs : List Byte) (base k : Nat) :
    sigsAt bs base (k + 1) = sigsAt bs base k ++ [sigAt bs (base + 4 * k)] := by simp [sigsAt, List.range_succ]

section Stage
variable {e : LoopEnv} {v : LoopVars}

/-- Staging keeps what MAX_OBJ has room for and sets `ovf` if that is not all. -/
theorem stageObjs_eq (h : v.objs.length ≤ e.maxObj) (base k : Nat) :
    stageObjs e base k v = { v with
      objs := keptUpTo e.maxObj v.objs (objsAt e.pb base k)
      ovf := v.ovf || decide (e.maxObj < v.objs.length + k) } := by
  induction k with
  | zero => simp [stageObjs, objsAt, keptUpTo_nil, Nat.not_lt.2 h]
  | succ k ih =>
    have hlen := keptUpTo_length (recs := objsAt e.pb base k) h
    rw [objsAt_length] at hlen
    rw [stageObjs, ih, objsAt_succ]
    rcases Nat.lt_or_ge (v.objs.length + k) e.maxObj with hroom | hfull
    · rw [appendObj_of_lt (by simp only; omega), keptUpTo_snoc_of_lt (by simpa using hroom)]
      simp [Nat.not_lt.2 hroom.le, Nat.not_lt.2 hroom, ← Nat.add_assoc]
    · rw [appendObj_of_ge (by simp only; omega), keptUpTo_snoc_of_ge (by simpa using hfull)]
      simp [Nat.lt_succ_of_le hfull, ← Nat.add_assoc]

theorem stageSigs_eq (h : v.sigs.length ≤ e.maxObj) (base k : Nat) :
    stageSigs e base k v = { v with
      sigs := keptUpTo e.maxObj v.sigs (sigsAt e.pb base k)
      ovf := v.ovf || decide (e.maxObj < v.sigs.length + k) } := by
  induction k with
  | zero => simp [stageSigs, sigsAt, keptUpTo_nil, Nat.not_lt.2 h]
  | succ k ih =>
    have hlen := keptUpTo_length (recs := sigsAt e.pb base k) h
    rw [sigsAt_length] at hlen
    rw [stageSigs, ih, sigsAt_succ]
    rcases Nat.lt_or_ge (v.sigs.length + k) e.maxObj with hroom | hfull
    · rw [appendSig_of_lt (by simp only; omega), keptUpTo_snoc_of_lt (by simpa using hroom)]
      simp [Nat.not_lt.2 hroom.le, Nat.not_lt.2 hroom, ← Nat.add_assoc]
    · rw [appendSig_of_ge (by simp only; omega), keptUpTo_snoc_of_ge (by simpa using hfull)]
      simp [Nat.lt_succ_of_le hfull, ← Nat.add_assoc]

/-- TLV_POSVEL with the cursor past the header: the whole records in the payload are staged and the block passed (R92). -/
theorem posvelBody_eq (h : v.objs.length ≤ e.maxObj) :
    posvelBody e v = { v with
      objs := keptUpTo e.maxObj v.objs (objsAt e.pb v.c (min e.N ((e.P - v.c) / 16)))
      ovf := v.ovf || decide (e.maxObj < v.objs.length + min e.N ((e.P - v.c) / 16))
      short := v.short || decide (e.P - v.c < e.N * 16)
      c := v.c + min (e.N * 16) (e.P - v.c) } := by
  rw [posvelBody, stageObjs_eq h]
  rfl

/-- TLV_SIGNAL likewise (R93). -/
theorem signalBody_eq (h : v.sigs.length ≤ e.maxObj) :
    signalBody e v = { v with
      sigs := keptUpTo e.maxObj v.sigs (sigsAt e.pb v.c (min e.N ((e.P - v.c) / 4)))
      ovf := v.ovf || decide (e.maxObj < v.sigs.length + min e.N ((e.P - v.c) / 4))
      short := v.short || decide (e.P - v.c < e.N * 4)
      c := v.c + min (e.N * 4) (e.P - v.c) } := by
  rw [signalBody, stageSigs_eq h]
  rfl

/-! Staging and the cursor's advance leave the index and the result alone. -/

@[simp] theorem stageObjs_i (base k : Nat) : (stageObjs e base k v).i = v.i := by rw [stageObjs_frame]
@[simp] theorem stageObjs_exit (base k : Nat) : (stageObjs e base k v).exit = v.exit := by rw [stageObjs_frame]
@[simp] theorem stageSigs_i (base k : Nat) : (stageSigs e base k v).i = v.i := by rw [stageSigs_frame]
@[simp] theorem stageSigs_exit (base k : Nat) : (stageSigs e base k v).exit = v.exit := by rw [stageSigs_frame]
@[simp] theorem posvelBody_i : (posvelBody e v).i = v.i := stageObjs_i v.c _
@[simp] theorem posvelBody_exit : (posvelBody e v).exit = v.exit := stageObjs_exit v.c _
@[simp] theorem signalBody_i : (signalBody e v).i = v.i := stageSigs_i v.c _
@[simp] theorem signalBody_exit : (signalBody e v).exit = v.exit := stageSigs_exit v.c _

end Stage

/-- Settles O17: the operation is `posvelBody`, with the block's records written out field by field. -/
theorem posvelStagesWholeRecords : Obligations.PosvelStagesWholeRecords := by
  intro len s h
  rw [exec_tlvPosvel, posvelBody_eq (by exact h)]
  rfl

/-- Settles O18: the operation is `signalBody`, with the block's records written out field by field. -/
theorem signalStagesWholeRecords : Obligations.SignalStagesWholeRecords := by
  intro len s h
  rw [exec_tlvSignal, signalBody_eq (by exact h)]
  rfl

/-- Settles O19: a skip is `advance` by the length word. -/
theorem skipAdvancesByTheLength : Obligations.SkipAdvancesByTheLength := by
  intro t len s
  rw [exec_tlvSkip, skipBody, advance]
  rfl

/-! ### One turn of the loop (R89 to R91) -/

section Turn
variable {e : LoopEnv} {v : LoopVars}

theorem loopTurn_of_done (h : e.T ≤ v.i) : loopTurn e v = { v with exit := .committed } := if_neg (Nat.not_lt.2 h)

theorem loopTurn_of_cut (hi : v.i < e.T) (hc : e.P - v.c < 8) : loopTurn e v = leaveShort v := by
  rw [loopTurn, if_pos hi, if_pos hc]

theorem loopTurn_of_whole (hi : v.i < e.T) (hc : 8 ≤ e.P - v.c) : loopTurn e v = runTlv e (fetchTlv e v) v := by
  rw [loopTurn, if_pos hi, if_neg (Nat.not_lt.2 hc)]

theorem nextIndex_eq {u : LoopVars} (h : u.i = v.i) : nextIndex u = { u with i := v.i + 1 } := by rw [nextIndex, h]

end Turn

/-- The bounds of R66 are the decoder's, checked before the type (R91). -/
theorem decodeTlv_illegal_iff (t len : Word) :
    (decodeTlv t len = .invalid t len ∨ decodeTlv t len = .invalidLen t len) ↔ 20 < t.toNat ∨ 10000 < len.toNat := by
  rcases decodeTlv_cases t len with
    ⟨hl, h⟩ | ⟨-, ht, h⟩ | ⟨hl, rfl, h⟩ | ⟨hl, rfl, h⟩ | ⟨hl, ht, -, -, h⟩ <;> rw [h]
  · exact iff_of_true (.inr rfl) (.inr hl)
  · exact iff_of_true (.inl rfl) (.inl ht)
  all_goals
    refine iff_of_false (by simp) ?_
    simp
    omega

/-- Settles O20: both illegal operations are `leaveBad`, and an illegal header selects one of them. -/
theorem illegalTlvLeavesTheLoop : Obligations.IllegalTlvLeavesTheLoop := by
  refine ⟨decodeTlv_illegal_iff, fun t len s => ⟨exec_tlvInvalid s t len, exec_tlvInvalidLen s t len⟩, ?_⟩
  intro e v hi hc t L hbad
  rw [loopTurn_of_whole hi hc, fetchTlv]
  rcases (decodeTlv_illegal_iff t L).2 hbad with h | h <;> rw [h] <;> rfl

/-- Within the bounds the type alone selects the row (R64). -/
theorem decodeTlv_of_legal {t len : Word} (ht : t.toNat ≤ 20) (hlen : len.toNat ≤ 10000) :
    decodeTlv t len =
      if t.toNat = 1 then .posvel len else if t.toNat = 7 then .signal len else .skip t len := by
  rw [decodeTlv, if_neg (Nat.not_lt.2 hlen), if_neg (Nat.not_lt.2 ht)]

/-- Settles O21: the cut header, the whole legal header by its type, and the end of the declared TLVs. -/
theorem cutHeaderEndsTheLoop : Obligations.CutHeaderEndsTheLoop := by
  refine ⟨exec_tlvHdrShort, fun e v => loopTurn_of_cut, fun s => ?whole, fun e v => loopTurn_of_done⟩
  case whole =>
    intro v t L row hi hc ht hL
    have hturn : loopTurn (loopEnv s) v = runTlv (loopEnv s) (decodeTlv t L) v := loopTurn_of_whole hi hc
    rw [hturn, decodeTlv_of_legal ht hL]
    by_cases h1 : t.toNat = 1
    · rw [if_pos h1, show row = .tlvPosvel L from if_pos h1]
      exact ⟨_, exec_tlvPosvel _ L, nextIndex_eq posvelBody_i⟩
    by_cases h7 : t.toNat = 7
    · rw [if_neg h1, if_pos h7, show row = .tlvSignal L from (if_neg h1).trans (if_pos h7)]
      exact ⟨_, exec_tlvSignal _ L, nextIndex_eq signalBody_i⟩
    · rw [if_neg h1, if_neg h7, show row = .tlvSkip t L from (if_neg h1).trans (if_neg h7)]
      exact ⟨_, exec_tlvSkip _ t L, rfl⟩

/-! ### The discard (R97) -/

/-- Settles O26: the window the entry of R121 empties as well is already empty. -/
theorem discardAbandonsThePacket : Obligations.DiscardAbandonsThePacket := by
  intro i t len s hhb
  have hmask : Event.tlvBad.mask = 0x004#9 := by decide
  rw [exec_discard, ← hmask, ← wrap32_toNat_succ, ← hhb]
  cases s
  cases hhb
  rfl

end Sys2Proof.Machine
end

section
/-! PROOF. The TLV loop as a whole (spec R88, R89, R96): each turn that goes on passes eight bytes of the payload, so the
loop ends; it reads no byte beyond the payload; and the last payload byte applies its result. -/

namespace Sys2Proof.Machine

/-! ### Running turns (R89) -/

section Loop
variable {e : LoopEnv} {v : LoopVars}

theorem loopFrom_succ_of_running (h : v.exit = .running) (n : Nat) :
    loopFrom e (n + 1) v = loopFrom e n (loopTurn e v) := if_pos h

theorem loopFrom_add (m n : Nat) (v : LoopVars) : loopFrom e (m + n) v = loopFrom e n (loopFrom e m v) := by
  induction m generalizing v with
  | zero => rw [Nat.zero_add, loopFrom]
  | succ m ih =>
    by_cases h : v.exit = .running
    · rw [Nat.succ_add, loopFrom_succ_of_running h, loopFrom_succ_of_running h, ih]
    · rw [loopFrom_of_exit h, loopFrom_of_exit h, loopFrom_of_exit h]

/-- Once the loop has a result, more turns change nothing. -/
theorem loopFrom_of_le {m n : Nat} (h : (loopFrom e m v).exit ≠ .running) (hn : m ≤ n) :
    loopFrom e n v = loopFrom e m v := by
  obtain ⟨k, rfl⟩ := Nat.exists_eq_add_of_le hn
  rw [loopFrom_add, loopFrom_of_exit h]

/-- The loop is its turns, one after the other, all but the last of which go on. -/
theorem loopFrom_eq_iterate (n : Nat) (v : LoopVars) :
    ∃ k, loopFrom e n v = (loopTurn e)^[k] v ∧ ∀ j < k, ((loopTurn e)^[j] v).exit = .running := by
  induction n generalizing v with
  | zero => exact ⟨0, rfl, nofun⟩
  | succ n ih =>
    by_cases h : v.exit = .running
    · obtain ⟨k, heq, hrun⟩ := ih (loopTurn e v)
      refine ⟨k + 1, (loopFrom_succ_of_running h n).trans heq, fun j hj => ?_⟩
      cases j with
      | zero => exact h
      | succ j => exact hrun j (Nat.lt_of_succ_lt_succ hj)
    · exact ⟨0, loopFrom_of_exit h e _, nofun⟩

/-- What every turn that goes on keeps, `loopFrom` keeps. -/
theorem loopFrom_induct {motive : LoopVars → Prop} (hturn : ∀ v, v.exit = .running → motive v → motive (loopTurn e v))
    (n : Nat) (h : motive v) : motive (loopFrom e n v) := by
  induction n generalizing v with
  | zero => exact h
  | succ n ih =>
    by_cases hv : v.exit = .running
    · rw [loopFrom_succ_of_running hv]
      exact ih (hturn v hv h)
    · rwa [loopFrom_of_exit hv]

/-! ### The loop ends (R96) -/

/-- With `n` turns for fewer than `8 * n` bytes left, the loop comes to a result. -/
theorem loopFrom_exits (n : Nat) (h : e.P - v.c < 8 * n) : (loopFrom e n v).exit ≠ .running := by
  induction n generalizing v with
  | zero => omega
  | succ n ih =>
    by_cases hv : v.exit = .running
    · rw [loopFrom_succ_of_running hv]
      rcases loopTurn_progress e v hv with hexit | ⟨-, -, hleft, hc, -⟩
      · rwa [loopFrom_of_exit hexit]
      · exact ih (by omega)
    · rwa [loopFrom_of_exit hv]

theorem tlvLoop_exits (e : LoopEnv) : (tlvLoop e).exit ≠ .running :=
  loopFrom_exits _ (show e.P - 0 < 8 * (e.P / 8 + 1) by omega)

/-- The TLVs passed are declared, and each had a whole header within the payload and before the cursor. -/
structure PassedLe (e : LoopEnv) (v : LoopVars) : Prop where
  declared : v.i ≤ e.T
  inPayload : 8 * v.i ≤ e.P
  beforeCursor : v.exit = .running → 8 * v.i ≤ v.c

theorem PassedLe.start (e : LoopEnv) : PassedLe e LoopVars.start := ⟨Nat.zero_le _, Nat.zero_le _, fun _ => Nat.zero_le _⟩

/-- A turn that leaves the loop passes no TLV. -/
theorem loopTurn_i_of_exit (hv : v.exit = .running) (h : (loopTurn e v).exit ≠ .running) : (loopTurn e v).i = v.i := by
  rcases Nat.lt_or_ge v.i e.T with hi | hi
  · rcases Nat.lt_or_ge (e.P - v.c) 8 with hc | hc
    · rw [loopTurn_of_cut hi hc]; rfl
    · rw [loopTurn_of_whole hi hc] at h ⊢
      cases hop : fetchTlv e v with
      | invalid t len | invalidLen t len => rfl
      | posvel len => rw [hop] at h; exact absurd ((posvelBody_exit (v := passHeader v)).trans hv) h
      | signal len => rw [hop] at h; exact absurd ((signalBody_exit (v := passHeader v)).trans hv) h
      | skip t len => rw [hop] at h; exact absurd hv h
  · rw [loopTurn_of_done hi]

theorem PassedLe.loopTurn (hv : v.exit = .running) (h : PassedLe e v) : PassedLe e (loopTurn e v) := by
  obtain ⟨hT, hP, hc⟩ := h
  have hc := hc hv
  by_cases hexit : (Machine.loopTurn e v).exit = .running
  · obtain ⟨-, hi, hleft, hcur, hnext⟩ := (loopTurn_progress e v hv).resolve_left (· hexit)
    rw [← Nat.succ_le_iff] at hi
    exact ⟨by omega, by omega, fun _ => by omega⟩
  · have hi := loopTurn_i_of_exit hv hexit
    exact ⟨by omega, by omega, fun hrun => absurd hrun hexit⟩

theorem PassedLe.tlvLoop (e : LoopEnv) : PassedLe e (tlvLoop e) :=
  loopFrom_induct (fun _ => PassedLe.loopTurn) _ (PassedLe.start e)

end Loop

/-- Settles O23: the loop comes to a result, and what its turns keep bounds it. -/
theorem loopEndsWithinItsBound : Obligations.LoopEndsWithinItsBound := by
  intro s P e
  obtain ⟨hT, hP, -⟩ := PassedLe.tlvLoop e
  obtain ⟨hobjs, hsigs⟩ := StagedLe.tlvLoop e
  have hexit := tlvLoop_exits e
  refine ⟨tlvLoop e, exec_tlvLoop s, hexit, ?_, hobjs, hsigs, fun n => loopFrom_of_le hexit, loopFrom_eq_iterate _ _⟩
  have hP' : 8 * (tlvLoop e).i ≤ P := hP
  exact le_min hT (by omega)

/-! ### Only the payload's bytes are read (R89) -/

/-- The loop's arguments with more bytes behind the payload. -/
def LoopEnv.followedBy (e : LoopEnv) (beyond : List Byte) : LoopEnv := { e with pb := e.pb ++ beyond }

section Beyond
variable {e : LoopEnv} {v : LoopVars} (beyond : List Byte) (hlen : e.pb.length = e.P)
include hlen

theorem fetchTlv_followedBy (hc : 8 ≤ e.P - v.c) : fetchTlv (e.followedBy beyond) v = fetchTlv e v := by
  rw [fetchTlv, LoopEnv.followedBy, le32_append_left (by omega), le32_append_left (by omega), fetchTlv]

theorem stageObjs_followedBy {base k : Nat} (h : base + 16 * k ≤ e.P) :
    stageObjs (e.followedBy beyond) base k v = stageObjs e base k v := by
  induction k with
  | zero => rfl
  | succ k ih =>
    have hrec : objAt (e.pb ++ beyond) (base + 16 * k) = objAt e.pb (base + 16 * k) := by
      simp only [objAt]
      rw [le32_append_left (by omega), le32_append_left (by omega), le32_append_left (by omega),
        le32_append_left (by omega)]
    rw [stageObjs, ih (by omega), stageObjs]
    exact congrArg (fun r => appendObj e.maxObj r _) hrec

theorem stageSigs_followedBy {base k : Nat} (h : base + 4 * k ≤ e.P) :
    stageSigs (e.followedBy beyond) base k v = stageSigs e base k v := by
  induction k with
  | zero => rfl
  | succ k ih =>
    have hrec : sigAt (e.pb ++ beyond) (base + 4 * k) = sigAt e.pb (base + 4 * k) := by
      simp only [sigAt]
      rw [le16_append_left (by omega), le16_append_left (by omega)]
    rw [stageSigs, ih (by omega), stageSigs]
    exact congrArg (fun r => appendSig e.maxObj r _) hrec

theorem runTlv_followedBy (hc : 8 ≤ e.P - v.c) (op : TlvOp) : runTlv (e.followedBy beyond) op v = runTlv e op v := by
  have hcur : (passHeader v).c = v.c + 8 := rfl
  cases op with
  | posvel len =>
    have hstage := stageObjs_followedBy (v := passHeader v) beyond hlen (base := v.c + 8)
      (k := min e.N ((e.P - (v.c + 8)) / 16)) (by omega)
    exact congrArg (fun u => nextIndex (advance e _ u)) hstage
  | signal len =>
    have hstage := stageSigs_followedBy (v := passHeader v) beyond hlen (base := v.c + 8)
      (k := min e.N ((e.P - (v.c + 8)) / 4)) (by omega)
    exact congrArg (fun u => nextIndex (advance e _ u)) hstage
  | skip t len | invalid t len | invalidLen t len => rfl

theorem loopTurn_followedBy : loopTurn (e.followedBy beyond) v = loopTurn e v := by
  rcases Nat.lt_or_ge v.i e.T with hi | hi
  · rcases Nat.lt_or_ge (e.P - v.c) 8 with hc | hc
    · rw [loopTurn_of_cut hi hc, loopTurn_of_cut (by exact hi) (by exact hc)]
    · rw [loopTurn_of_whole hi hc, loopTurn_of_whole (by exact hi) (by exact hc), fetchTlv_followedBy beyond hlen hc,
        runTlv_followedBy beyond hlen hc]
  · rw [loopTurn_of_done hi, loopTurn_of_done (by exact hi)]

theorem loopFrom_followedBy (n : Nat) : loopFrom (e.followedBy beyond) n v = loopFrom e n v := by
  induction n generalizing v with
  | zero => rfl
  | succ n ih => rw [loopFrom, loopTurn_followedBy beyond hlen, ih, loopFrom]

end Beyond

/-- Settles O24: every turn reads a whole header and whole records before the payload's end. -/
theorem loopReadsOnlyThePayload : Obligations.LoopReadsOnlyThePayload :=
  fun _ beyond hlen => loopFrom_followedBy beyond hlen _

/-! ### The last byte of the payload (R88) -/

section LoopField
variable (x : LoopVars) (s : State)

theorem raiseIf_withLoop (c : Bool) (e : Event) : raiseIf c e { s with loop := x } = { raiseIf c e s with loop := x } := by
  cases c <;> rfl

theorem commitRecord_withLoop (os : List ObjRec) (gs : List SigRec) (sh ov : Bool) :
    commitRecord os gs sh ov { s with loop := x } = { commitRecord os gs sh ov s with loop := x } := by
  have hraise : raise .frame { s with loop := x } = { raise .frame s with loop := x } := rfl
  simp only [commitRecord, hraise, raiseIf_withLoop]
  rfl

/-- A commit does not look at the loop's variables and does not change them. -/
theorem applyCommit_withLoop (os : List ObjRec) (gs : List SigRec) (sh ov : Bool) :
    applyCommit os gs sh ov { s with loop := x } = { applyCommit os gs sh ov s with loop := x } := by
  simp only [applyCommit, commitRecord_withLoop]
  split <;> rfl

end LoopField

theorem finishPacket_of_committed {s : State} (h : (tlvLoop (loopEnv s)).exit = .committed) :
    finishPacket s =
      { applyCommit (tlvLoop (loopEnv s)).objs (tlvLoop (loopEnv s)).sigs (tlvLoop (loopEnv s)).short
          (tlvLoop (loopEnv s)).ovf s with loop := LoopVars.start } := by
  simp only [finishPacket, applyExit, h]

/-- Settles O25: the two cases of a payload byte, and for the last byte the two results of the loop. -/
theorem payloadByteCollectsOrFinishes : Obligations.PayloadByteCollectsOrFinishes := by
  intro b s hp he P full v
  rw [exec_byteInPayload he hp]
  rcases takePayloadByte_cases b s with ⟨hne, heq⟩ | ⟨hlast, heq⟩ <;> rw [heq]
  · exact ⟨fun _ => rfl, fun hlast => absurd hlast hne⟩
  · refine ⟨fun hne => absurd hlast hne, fun _ => ⟨fun i t len hexit => ?discards, fun hexit => ?commits⟩⟩
    case discards =>
      rw [exec_discard, finishPacket_of_discarded (s := pushPb b s) hexit]
      rfl
    case commits =>
      rw [exec_commit, finishPacket_of_committed (s := pushPb b s) hexit]
      exact congrArg _ (applyCommit_withLoop LoopVars.start (pushPb b s) _ _ _ _).symm

end Sys2Proof.Machine
end

section
/-! PROOF. The packet of R98 as far as R66 allows it: its records read back from its payload, so the loop's turns stage
exactly them, and its last byte commits them (spec R62, R63, R76, R88, R98, R99). -/

namespace Sys2Proof

/-! ### Records read back from their bytes (R47, R62, R63, R76) -/

theorem le16_append_right (s t : List Byte) (o : Nat) (h : o + 2 ≤ t.length) :
    le16 (s ++ t) (s.length + o) = le16 t o := by
  simp only [le16, Nat.add_assoc]
  rw [byteAt_append_right _ _ _ (by omega), byteAt_append_right _ _ _ (by omega)]

/-- The two bytes of a halfword read back as the halfword. -/
theorem le16_bytes16 (w : Half) (t : List Byte) : le16 (bytes16 w ++ t) 0 = w := by
  have hbytes : le16 (bytes16 w ++ t) 0 = w.extractLsb' 8 8 ++ w.extractLsb' 0 8 := rfl
  rw [hbytes]
  ext i hi
  simp only [BitVec.getElem_append, BitVec.getElem_extractLsb']
  grind

theorem le32_append_length (s : List Byte) (w : Word) (t : List Byte) : le32 (s ++ (bytes32 w ++ t)) s.length = w :=
  (le32_append_right s _ 0 (by simp)).trans (le32_bytes32 w t)

theorem objAt_append_length (s : List Byte) (r : ObjRec) (t : List Byte) :
    objAt (s ++ (objBytes r ++ t)) s.length = r := by
  have hy := le32_append_length (s ++ bytes32 r.x) r.y (bytes32 r.z ++ (bytes32 r.v ++ t))
  have hz := le32_append_length (s ++ bytes32 r.x ++ bytes32 r.y) r.z (bytes32 r.v ++ t)
  have hv := le32_append_length (s ++ bytes32 r.x ++ bytes32 r.y ++ bytes32 r.z) r.v t
  simp only [List.append_assoc, List.length_append, bytes32_length, Nat.reduceAdd] at hy hz hv
  simp only [objAt, objBytes, List.append_assoc, le32_append_length, hy, hz, hv]

theorem sigAt_append_length (s : List Byte) (r : SigRec) (t : List Byte) :
    sigAt (s ++ (sigBytes r ++ t)) s.length = r := by
  have hsnr : le16 (s ++ (bytes16 r.snr ++ (bytes16 r.noise ++ t))) s.length = r.snr :=
    (le16_append_right s _ 0 (by simp)).trans (le16_bytes16 _ _)
  have hnoise : le16 (s ++ (bytes16 r.snr ++ (bytes16 r.noise ++ t))) (s.length + 2) = r.noise :=
    (le16_append_right s _ 2 (by simp; omega)).trans
      ((le16_append_right (bytes16 r.snr) _ 0 (by simp)).trans (le16_bytes16 _ _))
  simp only [sigAt, sigBytes, List.append_assoc, hsnr, hnoise]

/-- Where one record is read back from its `w` bytes, a block of records is. -/
theorem map_read_flatMap {α : Type} {w : Nat} {bytes : α → List Byte} {read : List Byte → Nat → α}
    (hlen : ∀ r, (bytes r).length = w) (hread : ∀ s r t, read (s ++ (bytes r ++ t)) s.length = r)
    (rs : List α) (s t : List Byte) :
    (List.range rs.length).map (fun j => read (s ++ (rs.flatMap bytes ++ t)) (s.length + w * j)) = rs := by
  induction rs generalizing s with
  | nil => rfl
  | cons r rs ih =>
    have hrest := ih (s ++ bytes r)
    rw [List.length_append, hlen r] at hrest
    rw [List.length_cons, List.range_succ_eq_map, List.map_cons, List.map_map]
    congr 1
    · rw [List.flatMap_cons, List.append_assoc]
      exact hread s r _
    · refine (List.map_congr_left fun j _ => ?_).trans hrest
      simp [List.append_assoc, Nat.mul_succ, Nat.add_assoc, Nat.add_comm w]

namespace Machine

theorem objsAt_append_length (s : List Byte) (os : List ObjRec) (t : List Byte) :
    objsAt (s ++ (os.flatMap objBytes ++ t)) s.length os.length = os :=
  map_read_flatMap objBytes_length objAt_append_length os s t

theorem sigsAt_append_length (s : List Byte) (gs : List SigRec) (t : List Byte) :
    sigsAt (s ++ (gs.flatMap sigBytes ++ t)) s.length gs.length = gs :=
  map_read_flatMap sigBytes_length sigAt_append_length gs s t

/-! ### The payload of the packet (R98) -/

section Payload
variable (os : List ObjRec) (gs : List SigRec)

/-- The payload up to the signals' TLV header. -/
def roundTripObjsPart : List Byte := bytes32 1#32 ++ bytes32 (BitVec.ofNat 32 (16 * os.length)) ++ os.flatMap objBytes

theorem roundTripObjsPart_length : (roundTripObjsPart os).length = 8 + 16 * os.length := by
  simp [roundTripObjsPart, List.length_flatMap]
  omega

theorem roundTripPayload_eq_append : roundTripPayload os gs =
    roundTripObjsPart os ++ (bytes32 7#32 ++ (bytes32 (BitVec.ofNat 32 (4 * os.length)) ++ gs.flatMap sigBytes)) := by
  simp [roundTripPayload_eq, roundTripObjsPart]

theorem roundTripPayload_objsHeader :
    le32 (roundTripPayload os gs) 0 = 1#32 ∧ le32 (roundTripPayload os gs) 4 = BitVec.ofNat 32 (16 * os.length) := by
  rw [roundTripPayload_eq]
  exact ⟨le32_bytes32 _ _, le32_append_length (bytes32 1#32) _ _⟩

theorem roundTripPayload_objs : objsAt (roundTripPayload os gs) 8 os.length = os := by
  rw [roundTripPayload_eq, ← List.append_assoc]
  exact objsAt_append_length (bytes32 1#32 ++ bytes32 (BitVec.ofNat 32 (16 * os.length))) os _

theorem roundTripPayload_sigsHeader :
    le32 (roundTripPayload os gs) (8 + 16 * os.length) = 7#32 ∧
    le32 (roundTripPayload os gs) (8 + 16 * os.length + 4) = BitVec.ofNat 32 (4 * os.length) := by
  rw [← roundTripObjsPart_length, roundTripPayload_eq_append]
  exact ⟨le32_append_length _ _ _, (le32_append_right _ _ 4 (by simp; omega)).trans (le32_append_length (bytes32 7#32) _ _)⟩

theorem roundTripPayload_sigs : sigsAt (roundTripPayload os gs) (8 + 16 * os.length + 8) gs.length = gs := by
  have h := sigsAt_append_length
    (roundTripObjsPart os ++ bytes32 7#32 ++ bytes32 (BitVec.ofNat 32 (4 * os.length))) gs []
  simpa [roundTripPayload_eq_append, roundTripObjsPart_length, Nat.add_assoc] using h

end Payload

/-! ### The loop's turns on it (R89, R92, R93) -/

section Turn
variable {e : LoopEnv} {v : LoopVars} {len : Word}

theorem loopTurn_of_posvel (hi : v.i < e.T) (hc : 8 ≤ e.P - v.c) (htype : le32 e.pb v.c = 1#32)
    (hlen : le32 e.pb (v.c + 4) = len) (hle : len.toNat ≤ 10000) :
    loopTurn e v = nextIndex (posvelBody e (passHeader v)) := by
  rw [loopTurn_of_whole hi hc, fetchTlv, htype, hlen, decodeTlv_of_legal (by decide) hle, if_pos (by decide), runTlv]

theorem loopTurn_of_signal (hi : v.i < e.T) (hc : 8 ≤ e.P - v.c) (htype : le32 e.pb v.c = 7#32)
    (hlen : le32 e.pb (v.c + 4) = len) (hle : len.toNat ≤ 10000) :
    loopTurn e v = nextIndex (signalBody e (passHeader v)) := by
  rw [loopTurn_of_whole hi hc, fetchTlv, htype, hlen, decodeTlv_of_legal (by decide) hle, if_neg (by decide),
    if_pos (by decide), runTlv]

/-- A block that the payload holds whole and MAX_OBJ has room for is staged as it is, without a flag. -/
theorem posvelBody_of_fits (hroom : v.objs.length + e.N ≤ e.maxObj) (hfit : 16 * e.N ≤ e.P - v.c) :
    posvelBody e v = { v with objs := v.objs ++ objsAt e.pb v.c e.N, c := v.c + 16 * e.N } := by
  have hk : min e.N ((e.P - v.c) / 16) = e.N := by omega
  have hc : min (e.N * 16) (e.P - v.c) = 16 * e.N := by omega
  rw [posvelBody_eq (by omega), hk, hc, keptUpTo_of_le (by simpa using hroom), decide_eq_false (by omega),
    decide_eq_false (by omega), Bool.or_false, Bool.or_false]

theorem signalBody_of_fits (hroom : v.sigs.length + e.N ≤ e.maxObj) (hfit : 4 * e.N ≤ e.P - v.c) :
    signalBody e v = { v with sigs := v.sigs ++ sigsAt e.pb v.c e.N, c := v.c + 4 * e.N } := by
  have hk : min e.N ((e.P - v.c) / 4) = e.N := by omega
  have hc : min (e.N * 4) (e.P - v.c) = 4 * e.N := by omega
  rw [signalBody_eq (by omega), hk, hc, keptUpTo_of_le (by simpa using hroom), decide_eq_false (by omega),
    decide_eq_false (by omega), Bool.or_false, Bool.or_false]

end Turn

/-- The loop's arguments for the packet of R98 with capacity for its records. -/
structure RoundTripEnv (e : LoopEnv) (os : List ObjRec) (gs : List SigRec) : Prop where
  pb : e.pb = roundTripPayload os gs
  P : e.P = 16 + 20 * os.length
  N : e.N = os.length
  T : e.T = 2
  sameLength : os.length = gs.length
  capacity : os.length ≤ e.maxObj
  legal : 16 * os.length ≤ 10000

/-- The loop's variables with the objects staged and passed. -/
def roundTripObjsStaged (os : List ObjRec) : LoopVars :=
  { c := 8 + 16 * os.length, i := 1, objs := os, sigs := [], short := false, ovf := false, exit := .running }

/-- The loop's variables with the signals staged and passed as well. -/
def roundTripStaged (os : List ObjRec) (gs : List SigRec) : LoopVars :=
  { c := 8 + 16 * os.length + 8 + 4 * os.length, i := 2, objs := os, sigs := gs, short := false, ovf := false
    exit := .running }

section Loop
variable {e : LoopEnv} {os : List ObjRec} {gs : List SigRec}

theorem RoundTripEnv.turn_objs (h : RoundTripEnv e os gs) : loopTurn e LoopVars.start = roundTripObjsStaged os := by
  obtain ⟨hpb, hP, hN, hT, hlen, hcap, hlegal⟩ := h
  obtain ⟨htype, hl⟩ := roundTripPayload_objsHeader os gs
  have hobjs : objsAt e.pb 8 e.N = os := by rw [hpb, hN, roundTripPayload_objs]
  have hle : (BitVec.ofNat 32 (16 * os.length)).toNat ≤ 10000 := by rw [BitVec.toNat_ofNat]; omega
  have hbody := posvelBody_of_fits (e := e) (v := passHeader LoopVars.start) (show 0 + e.N ≤ e.maxObj by omega)
    (show 16 * e.N ≤ e.P - 8 by omega)
  rw [← hpb] at htype hl
  rw [loopTurn_of_posvel (v := LoopVars.start) (show 0 < e.T by omega) (show 8 ≤ e.P - 0 by omega) htype hl hle, hbody,
    show objsAt e.pb (passHeader LoopVars.start).c e.N = os from hobjs, hN]
  rfl

theorem RoundTripEnv.turn_sigs (h : RoundTripEnv e os gs) :
    loopTurn e (roundTripObjsStaged os) = roundTripStaged os gs := by
  obtain ⟨hpb, hP, hN, hT, hlen, hcap, hlegal⟩ := h
  obtain ⟨htype, hl⟩ := roundTripPayload_sigsHeader os gs
  have hsigs : sigsAt e.pb (8 + 16 * os.length + 8) e.N = gs := by
    have hread := roundTripPayload_sigs os gs
    rw [← hlen] at hread
    rw [hpb, hN, hread]
  have hle : (BitVec.ofNat 32 (4 * os.length)).toNat ≤ 10000 := by rw [BitVec.toNat_ofNat]; omega
  have hbody := signalBody_of_fits (e := e) (v := passHeader (roundTripObjsStaged os))
    (show 0 + e.N ≤ e.maxObj by omega) (show 4 * e.N ≤ e.P - (8 + 16 * os.length + 8) by omega)
  rw [← hpb] at htype hl
  rw [loopTurn_of_signal (v := roundTripObjsStaged os) (show 1 < e.T by omega)
    (show 8 ≤ e.P - (8 + 16 * os.length) by omega) htype hl hle, hbody,
    show sigsAt e.pb (passHeader (roundTripObjsStaged os)).c e.N = gs from hsigs, hN]
  rfl

/-- Two turns stage the records, and the third ends the loop. -/
theorem RoundTripEnv.tlvLoop (h : RoundTripEnv e os gs) :
    tlvLoop e = { roundTripStaged os gs with exit := .committed } := by
  have hthree : loopFrom e 3 LoopVars.start = { roundTripStaged os gs with exit := .committed } := by
    rw [loopFrom_succ_of_running rfl, h.turn_objs, loopFrom_succ_of_running rfl, h.turn_sigs,
      loopFrom_succ_of_running rfl, loopTurn_of_done h.T.le, loopFrom]
  have hturns : 3 ≤ e.P / 8 + 1 := by rw [h.P]; omega
  rw [Machine.tlvLoop, loopFrom_of_le (by simp [hthree]) hturns, hthree]

end Loop

/-! ### The statement -/

section RoundTrip
variable {s : State} {os : List ObjRec} {gs : List SigRec}

theorem roundTripEnv_loopEnv (hlen : os.length = gs.length) (hcap : os.length ≤ s.params.maxObj)
    (hlegal : 16 * os.length ≤ 10000) : RoundTripEnv (loopEnv (roundTripReceived os gs s)) os gs where
  pb := rfl
  P := by
    have hpay := roundTripPayload_length os gs
    have hpkt := roundTripHeader_pktLen_toNat (os := os) (gs := gs) (by omega)
    change (roundTripHeader os gs).pktLen.toNat - 40 = 16 + 20 * os.length
    omega
  N := Nat.mod_eq_of_lt (show os.length < 2 ^ 32 by omega)
  T := rfl
  sameLength := hlen
  capacity := hcap
  legal := hlegal

/-- The packet's last step commits its records, none of them dropped (R99). -/
theorem finishPacket_roundTripReceived (hlen : os.length = gs.length) (hcap : os.length ≤ s.params.maxObj)
    (hlegal : 16 * os.length ≤ 10000) :
    finishPacket (roundTripReceived os gs s) =
      { applyCommit os gs false false (roundTripReceived os gs s) with loop := LoopVars.start } := by
  have hloop := (roundTripEnv_loopEnv (s := s) hlen hcap hlegal).tlvLoop
  rw [finishPacket_of_committed (congrArg LoopVars.exit hloop), hloop]
  rfl

end RoundTrip

/-- Settles O31: the packet arrives whole, and its last step commits the records that the loop has staged. -/
theorem packetRoundTrip : Obligations.PacketRoundTrip := by
  rintro s os gs bs ⟨hpar, -⟩ hp hhb he hlen hpos hcap hmax hlegal hbs rfl hsch
  have hpay := roundTripPayload_length os gs
  have hrun := runs_roundTripPacket (gs := gs) hpar he hp hhb (by omega) hbs hsch
  rw [finishPacket_roundTripReceived hlen hcap hlegal] at hrun
  rcases applyCommit_cases os gs false false (roundTripReceived os gs s) with ⟨-, heq⟩ | ⟨hnone, -⟩
  · rw [heq] at hrun
    refine ⟨_, hrun, rfl, rfl, rfl, ?rows, rfl, ?cycle, ?outcome, ?source⟩
    case rows => exact Nat.min_eq_left hlen.le
    case cycle => exact commitRecord_curCycle ..
    case outcome =>
      have hout := commitRecord_lastOutcome (roundTripReceived os gs s) os gs false false
      rw [show decide (os.length ≠ gs.length) = false by simp [hlen]] at hout
      exact hout
    case source => exact commitRecord_source ..
  · omega

end Machine
end Sys2Proof
end

section
/-! PROOF. The commit and the row output (spec R99 to R106): what the commit records, what one row transfer leaves, and the run
of a ready Sink, which is the state after `k` of the remaining rows by induction on `k`. -/

namespace Sys2Proof.Machine

/-! ### The commit (R99) -/

theorem raiseIf_eq (c : Bool) (e : Event) (s : State) :
    raiseIf c e s = { s with events := s.events ||| if c then e.mask else 0#9 } := by
  cases c
  · simp [raiseIf]
  · rfl

/-- The state that every commit leaves, written out (R99). -/
theorem commitRecord_eq (os : List ObjRec) (gs : List SigRec) (sh ov : Bool) (s : State) :
    commitRecord os gs sh ov s = { s with
      events := s.events ||| Event.frame.mask ||| (if decide (os.length ≠ gs.length) then Event.trunc.mask else 0#9)
        ||| (if sh then Event.short.mask else 0#9) ||| (if ov then Event.ovf.mask else 0#9)
      frameCnt := s.frameCnt + 1#32
      lastOutcome := commitOutcome (decide (os.length ≠ gs.length)) sh ov
      lastObjLen := wrap32 os.length
      lastSigLen := wrap32 gs.length
      lastRows := wrap32 (min os.length gs.length)
      curCycle := s.cycleId
      lastCycle := s.cycleId
      cycleId := if autoInc s then s.cycleId + 1#32 else s.cycleId
      pb := [] } := by
  simp only [commitRecord, raiseIf_eq, raise, wrap32_toNat_succ]
  rfl

/-- Settles O27: with rows and without, the commit is what it records and the arrays it keeps or clears. -/
theorem commitFixesTheRows : Obligations.CommitFixesTheRows := by
  intro os gs sh ov s n trunc
  rw [exec_commit]
  rcases applyCommit_cases os gs sh ov s with ⟨hn, heq⟩ | ⟨hn, heq⟩ <;> rw [heq, commitRecord_eq]
  · rw [if_pos hn, if_pos hn, if_pos hn]
    rfl
  · have hno : ¬0 < n := Nat.not_lt.2 hn.le
    rw [if_neg hno, if_neg hno, if_neg hno, show n = 0 from hn, hn]
    rfl

/-! ### One row (R100 to R102) -/

section Row
variable {s : State}

theorem exec_rowOut_of_not_emit (h : s.phase ≠ .emit) : exec .rowOut s = .next s :=
  if_neg (mt (outValid_eq_true_iff s).1 h)

theorem outPort_of_emit (h : s.phase = .emit) : outPort s = some (currentTransfer s) :=
  if_pos ((outValid_eq_true_iff s).2 h)

/-- Settles O29. -/
theorem emitEndClearsTheStaging : Obligations.EmitEndClearsTheStaging := ⟨fun _ => rfl, fun _ => exec_rowOut_of_not_emit⟩

/-- What one transfer makes of the Dataset and the two row counts (R101). -/
def rowTaken (s : State) : State :=
  { s with dataset := s.dataset ++ [currentTransfer s], rowCnt := s.rowCnt + 1#32, emitIdx := s.emitIdx + 1 }

theorem transferRow_of_more (h : s.emitIdx + 1 ≠ s.emitN) : transferRow s = rowTaken s := by
  rw [rowTaken, ← wrap32_toNat_succ]
  exact if_neg h

theorem transferRow_of_last (h : s.emitIdx + 1 = s.emitN) : transferRow s = clearEmission (rowTaken s) := by
  rw [rowTaken, ← wrap32_toNat_succ]
  exact if_pos h

/-- The port merges the records at EMIT_IDX (R100). -/
theorem currentTransfer_of_getElem? {o : ObjRec} {g : SigRec} (ho : s.obj[s.emitIdx]? = some o)
    (hg : s.sig[s.emitIdx]? = some g) :
    currentTransfer s =
      { row := mergeRow s.curCycle s.emitIdx o g, last := decide (s.emitIdx + 1 = s.emitN) } := by
  rw [currentTransfer, stagedObj, stagedSig, ho, hg, Option.getD_some, Option.getD_some]

/-- Settles O28: the presented row is the merged one, and the two cases of its transfer are the two clauses. -/
theorem rowOutDeliversTheMergedRow : Obligations.RowOutDeliversTheMergedRow := by
  intro s o g hp ho hg row
  have hrow : currentTransfer s = row := currentTransfer_of_getElem? ho hg
  rw [outPort_of_emit hp, exec_rowOut hp, ← hrow]
  exact ⟨(outValid_eq_true_iff s).2 hp, rfl, fun hmore => congrArg _ (transferRow_of_more hmore),
    fun hlast => congrArg _ (transferRow_of_last hlast)⟩

end Row

/-! ### The rows of a cycle (R105) -/

theorem rowsOf_length (cycle : Word) (os : List ObjRec) (gs : List SigRec) :
    (rowsOf cycle os gs).length = min os.length gs.length := by
  simp [rowsOf]

theorem rowsOf_eq_nil {os : List ObjRec} {gs : List SigRec} (h : min os.length gs.length = 0) (cycle : Word) :
    rowsOf cycle os gs = [] := List.eq_nil_of_length_eq_zero ((rowsOf_length cycle os gs).trans h)

section Emission
variable {s : State}

/-- The row on the port is the first of the cycle's rows that are left. -/
theorem rowsOf_drop_emitIdx (hn : s.emitN = min s.obj.length s.sig.length) (hidx : s.emitIdx < s.emitN) :
    (rowsOf s.curCycle s.obj s.sig).drop s.emitIdx =
      currentTransfer s :: (rowsOf s.curCycle s.obj s.sig).drop (s.emitIdx + 1) := by
  have hlen : s.emitIdx < (rowsOf s.curCycle s.obj s.sig).length := by rw [rowsOf_length]; omega
  have ho : s.obj[s.emitIdx]? = some s.obj[s.emitIdx] := List.getElem?_eq_getElem (by omega)
  have hg : s.sig[s.emitIdx]? = some s.sig[s.emitIdx] := List.getElem?_eq_getElem (by omega)
  rw [List.drop_eq_getElem_cons hlen, currentTransfer_of_getElem? ho hg, hn]
  simp [rowsOf]

/-! ### A ready Sink (R106) -/

/-- `s` after `k` of its remaining rows, before the end of the emission, if it has come, clears the staging. -/
def rowsTaken (s : State) (k : Nat) : State :=
  { s with
    dataset := s.dataset ++ ((rowsOf s.curCycle s.obj s.sig).drop s.emitIdx).take k
    rowCnt := s.rowCnt + BitVec.ofNat 32 k
    emitIdx := s.emitIdx + k
    schedule := s.schedule.drop k }

theorem rowsTaken_zero (s : State) : rowsTaken s 0 = s := by
  cases s
  simp [rowsTaken]

/-- One row more. -/
theorem rowTaken_rowsTaken (hn : s.emitN = min s.obj.length s.sig.length) {k : Nat} (hk : s.emitIdx + k < s.emitN) :
    rowTaken { rowsTaken s k with schedule := s.schedule.drop (k + 1) } = rowsTaken s (k + 1) := by
  have hfirst := rowsOf_drop_emitIdx (s := rowsTaken s k) hn hk
  have hrows : ((rowsOf s.curCycle s.obj s.sig).drop s.emitIdx).take (k + 1) =
      ((rowsOf s.curCycle s.obj s.sig).drop s.emitIdx).take k ++ [currentTransfer (rowsTaken s k)] := by
    rw [List.take_add, List.drop_drop, show (rowsOf s.curCycle s.obj s.sig).drop (s.emitIdx + k) = _ from hfirst]
    rfl
  have hcnt : s.rowCnt + BitVec.ofNat 32 k + 1#32 = s.rowCnt + BitVec.ofNat 32 (k + 1) := by
    rw [BitVec.ofNat_add, BitVec.add_assoc]
  conv_rhs => rw [rowsTaken, hrows, ← hcnt, ← List.append_assoc]
  rfl

theorem step_rowsTaken {ts : List Turn} (hp : s.phase = .emit) {k : Nat}
    (hsch : s.schedule = List.replicate (s.emitN - s.emitIdx) .sink ++ ts) (hk : s.emitIdx + k < s.emitN) :
    step (rowsTaken s k) = .next (transferRow { rowsTaken s k with schedule := s.schedule.drop (k + 1) }) := by
  have hturn : (rowsTaken s k).schedule = .sink :: s.schedule.drop (k + 1) := by
    have hlen : k < s.schedule.length := by rw [hsch]; simp; omega
    have hget : s.schedule[k] = .sink := by
      simp only [hsch]
      rw [List.getElem_append_left (by simp; omega), List.getElem_replicate]
    rw [← hget]
    exact List.drop_eq_getElem_cons hlen
  rw [step_sink_emit hturn hp, exec_rowOut (by exact hp)]

variable {ts : List Turn} (hp : s.phase = .emit) (hn : s.emitN = min s.obj.length s.sig.length)
  (hsch : s.schedule = List.replicate (s.emitN - s.emitIdx) .sink ++ ts)
include hp hn hsch

/-- While rows are left after them, `k` turns of the Sink deliver `k` rows. -/
theorem runs_rowsTaken {k : Nat} (hk : s.emitIdx + k < s.emitN) : Runs k s (rowsTaken s k) := by
  induction k with
  | zero => rw [rowsTaken_zero]; exact .zero s
  | succ k ih =>
    have hstep := step_rowsTaken hp hsch (k := k) (by omega)
    rw [transferRow_of_more (show s.emitIdx + k + 1 ≠ s.emitN by omega), rowTaken_rowsTaken hn (by omega)] at hstep
    exact (ih (by omega)).snoc hstep

/-- The last row ends the emission (R102). -/
theorem runs_lastRow {k : Nat} (hk : s.emitIdx + k + 1 = s.emitN) :
    Runs (k + 1) s (clearEmission (rowsTaken s (k + 1))) := by
  have hstep := step_rowsTaken hp hsch (k := k) (by omega)
  rw [transferRow_of_last (by exact hk), rowTaken_rowsTaken hn (by omega)] at hstep
  exact (runs_rowsTaken hp hn hsch (by omega)).snoc hstep

end Emission

/-- Settles O30: the turns before the last leave the phase alone, and the last one has delivered every row. -/
theorem emissionDeliversEveryRow : Obligations.EmissionDeliversEveryRow := by
  rintro s ts ⟨-, -, -, hemit, -⟩ hp hsch
  obtain ⟨-, -, hn, -, hidx, -⟩ := hemit hp
  refine ⟨fun k hk => ⟨_, runs_rowsTaken hp hn hsch (by omega), hp⟩, ?_⟩
  obtain ⟨k, hk⟩ : ∃ k, s.emitN - s.emitIdx = k + 1 := Nat.exists_eq_add_one.2 (by omega)
  have hrun := runs_lastRow hp hn hsch (k := k) (by omega)
  rw [hk] at hsch ⊢
  refine ⟨_, hrun, rfl, ⟨rfl, rfl, rfl, rfl⟩, ?schedule, ?dataset, rfl⟩
  case schedule =>
    change s.schedule.drop (k + 1) = ts
    rw [hsch]
    exact List.drop_left' List.length_replicate
  case dataset =>
    refine congrArg (s.dataset ++ ·) (List.take_of_length_le ?_)
    rw [List.length_drop, rowsOf_length]
    omega

end Sys2Proof.Machine
end

section
/-! PROOF. The Dataset (spec R16, R101, R130): nothing but a row transfer writes it, and only a turn of the Sink is one. -/

namespace Sys2Proof.Machine

/-! ### What leaves the Dataset alone -/

@[simp] theorem applyCommit_dataset (os : List ObjRec) (gs : List SigRec) (sh ov : Bool) (s : State) :
    (applyCommit os gs sh ov s).dataset = s.dataset := by
  rcases applyCommit_cases os gs sh ov s with ⟨-, h⟩ | ⟨-, h⟩ <;> simp [h]

@[simp] theorem finishPacket_dataset (s : State) : (finishPacket s).dataset = s.dataset := by
  rcases finishPacket_cases s with ⟨i, t, len, h⟩ | h <;> simp [h]

@[simp] theorem checkLength_dataset (s : State) : (checkLength s).dataset = s.dataset := by
  rcases checkLength_cases s with ⟨-, h⟩ | ⟨-, h⟩
  · simp [h]
  · rcases acceptHeader_cases s with ⟨-, h'⟩ | ⟨-, h'⟩ <;> simp [h, h']

@[simp] theorem shiftWindow_dataset (s : State) : (shiftWindow s).dataset = s.dataset := by
  obtain ⟨u, rfl, h | h⟩ := shiftWindow_cases s <;> simp [h]

@[simp] theorem takeHeaderByte_dataset (b : Byte) (s : State) : (takeHeaderByte b s).dataset = s.dataset := by
  rcases takeHeaderByte_cases b s with ⟨-, h⟩ | ⟨-, -, h⟩ | ⟨-, -, h⟩ <;> simp [h, latchHeader]

@[simp] theorem takePayloadByte_dataset (b : Byte) (s : State) : (takePayloadByte b s).dataset = s.dataset := by
  rcases takePayloadByte_cases b s with ⟨-, h⟩ | ⟨-, h⟩ <;> simp [h]

@[simp] theorem runCommand_dataset (c : CmdOp) (s : State) : (runCommand c s).dataset = s.dataset := by
  cases c with
  | abort => simp only [runCommand, abortPacket]; split <;> rfl
  | nop | restart | clearStats | softReset | illegal w => rfl

theorem HostEffect.dataset {s t : State} {i : Instr} (h : HostEffect s i t) : t.dataset = s.dataset := by
  cases h with
  | command c => exact runCommand_dataset c s
  | answer | ctrl | events | irqEn | cycleId | resyncLimit => rfl

theorem transferRow_dataset (s : State) : (transferRow s).dataset = s.dataset ++ [currentTransfer s] := by
  obtain ⟨u, rfl, ⟨-, h⟩ | ⟨-, h⟩⟩ := transferRow_cases s <;> rw [h]
  rfl

/-! ### Only the Sink takes a row -/

theorem toInstr_ne_rowOut (c : CmdOp) : c.toInstr ≠ .rowOut := by cases c <;> nofun

theorem accessInstr_ne_rowOut (x : Access) : accessInstr x ≠ .rowOut := by
  cases x with
  | read a => rw [accessInstr, decodeRead]; split <;> nofun
  | write a d =>
    rw [accessInstr]
    rcases decodeWrite_cases a d with
      ⟨-, h⟩ | ⟨-, h⟩ | ⟨-, h⟩ | ⟨-, h⟩ | ⟨-, h⟩ | ⟨-, h⟩ | ⟨-, h⟩ | ⟨-, h⟩ <;> rw [h]
    case inr.inr.inl => exact toInstr_ne_rowOut _
    all_goals nofun

theorem sink_of_fetch_rowOut {s : State} {w : PortWord} (hw : fetch s = some w)
    (hi : decode w.format w.bytes = .ok .rowOut) : ∃ ts, s.schedule = .sink :: ts := by
  obtain ⟨a, ts, hts, ha⟩ := fetch_turn hw
  rcases fetchTurn_cases ha with
    ⟨b, bs, -, -, -, -, hd⟩ | ⟨b, bs, -, -, -, -, hd⟩ | ⟨rfl, -, -⟩ | ⟨x, ops, -, -, hd⟩ | ⟨-, hd⟩
  case inr.inr.inl => exact ⟨ts, hts⟩
  case inr.inr.inr.inl => exact absurd (Except.ok.inj (hi.symm.trans hd)).symm (accessInstr_ne_rowOut x)
  all_goals cases hi.symm.trans hd

/-- Settles O56: of all that a step can do, only the row transfer writes the Dataset, and only the Sink's turn is one. -/
theorem datasetOnlyGrows : Obligations.DatasetOnlyGrows := by
  intro s t h
  cases hw : fetch s with
  | none => cases stepEffect_of_fetch_none hw h; exact .inl rfl
  | some w =>
    obtain ⟨i, hi⟩ := Laws.fetch_decodes hw
    cases stepEffect_of_decode hw hi h with
    | headerByte b bs ts => exact .inl (takeHeaderByte_dataset b _)
    | payloadByte b bs ts => exact .inl (takePayloadByte_dataset b _)
    | row ts hph => exact .inr ⟨hph, sink_of_fetch_rowOut hw hi, transferRow_dataset _⟩
    | host ts ops heff => exact .inl heff.dataset
    | reset ts => exact .inl rfl

end Sys2Proof.Machine
end

section
/-! PROOF. The stream-level reading (spec R86, R105), unfolded one header at a time: what is read after a header, apart from the
fuel that `parse` recurses on. -/

namespace Sys2Proof.Machine

/-! ### The first header of a stream (R86) -/

theorem syncAt_cons_succ (b : Byte) (bs : List Byte) (p : Nat) : syncAt (b :: bs) (p + 1) = syncAt bs p := by
  rw [Bool.eq_iff_iff, syncAt_iff, syncAt_iff, List.drop_succ_cons, List.length_cons]
  exact and_congr_left' (by omega)

/-- A byte where no header starts only moves the first one. -/
theorem firstSync_cons {b : Byte} {bs : List Byte} (h : syncAt (b :: bs) 0 = false) :
    firstSync (b :: bs) = (firstSync bs).map (· + 1) := by
  have hsucc : syncAt (b :: bs) ∘ Nat.succ = syncAt bs := funext (syncAt_cons_succ b bs)
  rw [firstSync, List.length_cons, List.range_succ_eq_map, List.find?_cons_of_neg (by simp [h]), List.find?_map, hsucc]
  rfl

theorem firstSync_of_syncAt_zero {bs : List Byte} (h : syncAt bs 0 = true) : firstSync bs = some 0 :=
  firstSync_eq_some_iff.2 ⟨h, nofun⟩

theorem firstSync_of_short {bs : List Byte} (h : bs.length < 40) : firstSync bs = none := by
  refine Option.eq_none_iff_forall_ne_some.2 fun p hp => ?_
  have := le_length_of_firstSync hp
  omega

/-! ### What follows a header (R105) -/

/-- What follows a whole payload on which the loop ends with `v`: the rows of the commit, if it commits, and what `next` reads
after it. -/
def rowsAfterPayload (next : List Byte → Word → List Transfer) (auto : Bool) (v : LoopVars) (rest : List Byte)
    (cycle : Word) : List Transfer :=
  match v.exit with
  | .discarded _ _ _ => next rest cycle
  | _ => rowsOf cycle v.objs v.sigs ++ next rest (nextCycle auto cycle)

/-- What follows a header: nothing of a packet with a bad length (R83), nothing at all of a stream that ends within the
payload. -/
def rowsAfterHeader (next : List Byte → Word → List Transfer) (p : Params) (auto : Bool) (h : Header) (rest : List Byte)
    (cycle : Word) : List Transfer :=
  if h.pktLen.toNat < 40 ∨ p.payloadMax < h.pktLen.toNat - 40 then next rest cycle
  else if rest.length < h.pktLen.toNat - 40 then []
  else rowsAfterPayload next auto
    (tlvLoop { pb := rest.take (h.pktLen.toNat - 40), P := h.pktLen.toNat - 40, N := h.numObj.toNat, T := h.numTlv.toNat
               maxObj := p.maxObj }) (rest.drop (h.pktLen.toNat - 40)) cycle

section After
variable {next next' : List Byte → Word → List Transfer} {p : Params} {auto : Bool} {v : LoopVars} {h : Header}
  {rest : List Byte} {cycle : Word}

theorem rowsAfterPayload_of_discarded {i : Nat} {t len : Word} (hexit : v.exit = .discarded i t len) :
    rowsAfterPayload next auto v rest cycle = next rest cycle := by
  rw [rowsAfterPayload, hexit]

theorem rowsAfterPayload_of_committed (hexit : v.exit = .committed) :
    rowsAfterPayload next auto v rest cycle = rowsOf cycle v.objs v.sigs ++ next rest (nextCycle auto cycle) := by
  rw [rowsAfterPayload, hexit]

theorem rowsAfterPayload_congr (hnext : next rest = next' rest) :
    rowsAfterPayload next auto v rest cycle = rowsAfterPayload next' auto v rest cycle := by
  rw [rowsAfterPayload, rowsAfterPayload, hnext]

/-- The reading goes on in what is left behind the header. -/
theorem rowsAfterHeader_congr (hnext : ∀ bs, bs.length ≤ rest.length → next bs = next' bs) :
    rowsAfterHeader next p auto h rest cycle = rowsAfterHeader next' p auto h rest cycle := by
  simp only [rowsAfterHeader, hnext rest le_rfl]
  rw [rowsAfterPayload_congr (hnext _ (by simp))]

theorem rowsAfterHeader_of_bad (hbad : h.pktLen.toNat < 40 ∨ p.payloadMax < h.pktLen.toNat - 40) :
    rowsAfterHeader next p auto h rest cycle = next rest cycle := if_pos hbad

theorem rowsAfterHeader_of_cut (hok : ¬(h.pktLen.toNat < 40 ∨ p.payloadMax < h.pktLen.toNat - 40))
    (hcut : rest.length < h.pktLen.toNat - 40) : rowsAfterHeader next p auto h rest cycle = [] :=
  (if_neg hok).trans (if_pos hcut)

theorem rowsAfterHeader_of_whole (hok : ¬(h.pktLen.toNat < 40 ∨ p.payloadMax < h.pktLen.toNat - 40)) {payload : List Byte}
    (hlen : payload.length = h.pktLen.toNat - 40) :
    rowsAfterHeader next p auto h (payload ++ rest) cycle = rowsAfterPayload next auto
      (tlvLoop
        { pb := payload, P := h.pktLen.toNat - 40, N := h.numObj.toNat, T := h.numTlv.toNat, maxObj := p.maxObj })
      rest cycle := by
  rw [rowsAfterHeader, if_neg hok, if_neg (by rw [List.length_append]; omega), List.take_left' hlen, List.drop_left' hlen]

end After

/-! ### The reading, header by header (R105) -/

section Parse
variable {p : Params} {auto : Bool} {bs : List Byte} {cycle : Word}

theorem le32_drop {q o : Nat} (h : q + o + 4 ≤ bs.length) : le32 (bs.drop q) o = le32 bs (q + o) := by
  have hread := le32_append_right (bs.take q) (bs.drop q) o (by rw [List.length_drop]; omega)
  rwa [List.take_append_drop, List.length_take, Nat.min_eq_left (by omega), eq_comm] at hread

theorem parse_of_none (h : firstSync bs = none) (n : Nat) : parse p auto n bs cycle = [] := by
  cases n with
  | zero => rfl
  | succ n => rw [parse, h]

theorem parse_succ_of_some {q : Nat} (h : firstSync bs = some q) (n : Nat) :
    parse p auto (n + 1) bs cycle =
      rowsAfterHeader (parse p auto n) p auto (headerAt (bs.drop q)) (bs.drop (q + 40)) cycle := by
  have hlen := le_length_of_firstSync h
  have hpkt : (headerAt (bs.drop q)).pktLen = le32 bs (q + 12) := le32_drop (by omega)
  have hobj : (headerAt (bs.drop q)).numObj = le32 bs (q + 28) := le32_drop (by omega)
  have htlv : (headerAt (bs.drop q)).numTlv = le32 bs (q + 32) := le32_drop (by omega)
  rw [parse, h, rowsAfterHeader, hpkt, hobj, htlv]
  dsimp only
  split_ifs
  case pos => rfl
  case pos => rfl
  case neg =>
    generalize tlvLoop _ = v
    cases v with
    | mk c i objs sigs short ovf exit => cases exit <;> rfl

/-- Every call drops a header, so more fuel than bytes is fuel enough. -/
theorem parse_fuel {m n : Nat} (hm : bs.length < m) (hn : bs.length < n) : parse p auto m bs = parse p auto n bs := by
  induction m generalizing n bs with
  | zero => omega
  | succ m ih =>
    obtain ⟨n, rfl⟩ := Nat.exists_eq_add_one.2 (Nat.zero_lt_of_lt hn)
    funext cycle
    cases h : firstSync bs with
    | none => rw [parse_of_none h, parse_of_none h]
    | some q =>
      have hlen := le_length_of_firstSync h
      rw [parse_succ_of_some h, parse_succ_of_some h]
      refine rowsAfterHeader_congr fun rest hrest => ?_
      rw [List.length_drop] at hrest
      exact ih (by omega) (by omega)

/-- `parse` with fuel enough. -/
def parsed (p : Params) (auto : Bool) (bs : List Byte) (cycle : Word) : List Transfer :=
  parse p auto (bs.length + 1) bs cycle

/-- Fewer than forty bytes hold no header. -/
theorem parsed_of_short (h : bs.length < 40) : parsed p auto bs cycle = [] := parse_of_none (firstSync_of_short h) _

theorem parsed_of_syncAt (h : syncAt bs 0 = true) :
    parsed p auto bs cycle = rowsAfterHeader (parsed p auto) p auto (headerAt bs) (bs.drop 40) cycle := by
  rw [parsed, parse_succ_of_some (firstSync_of_syncAt_zero h)]
  refine rowsAfterHeader_congr fun rest hrest => ?_
  have hlen := ((syncAt_iff bs 0).1 h).1
  rw [List.length_drop] at hrest
  exact parse_fuel (by omega) (by omega)

/-- A byte where no header starts is passed over (R81). -/
theorem parsed_cons {b : Byte} (h : syncAt (b :: bs) 0 = false) : parsed p auto (b :: bs) cycle = parsed p auto bs cycle := by
  rw [show parsed p auto bs cycle = parse p auto (bs.length + 1 + 1) bs cycle from
    congrFun (parse_fuel (by omega) (by omega)) cycle, parsed, List.length_cons]
  cases hfirst : firstSync bs with
  | none => rw [parse_of_none hfirst, parse_of_none (by rw [firstSync_cons h, hfirst]; rfl)]
  | some q =>
    rw [parse_succ_of_some hfirst, parse_succ_of_some (q := q + 1) (by rw [firstSync_cons h, hfirst]; rfl)]
    rfl

end Parse

end Sys2Proof.Machine
end

section
/-! PROOF. The Dataset of a stream (spec R105, R140): what the Sink has and what it is still to get are together the same before
and after every step of the Source and the Sink, and at rest nothing is left to get. -/

namespace Sys2Proof.Machine

variable {s t : State} {b : Byte} {bs : List Byte}

/-! ### The rows still to come -/

/-- The reading of a stream with the parameters and the AUTOINC bit of a state. -/
def reader (s : State) : List Byte → Word → List Transfer := parsed s.params (autoInc s)

section Window
variable {w rest : List Byte} {cycle : Word} (hlen : w.length = 40)
include hlen

theorem syncAt_window : syncAt (w ++ rest) 0 = isSync w := by
  rw [← isSync_window (by simp [hlen]), List.drop_zero, List.take_left' hlen]

/-- A matching window is read as its header (R78, R80). -/
theorem reader_of_match (hsync : isSync w = true) :
    reader s (w ++ rest) cycle = rowsAfterHeader (reader s) s.params (autoInc s) (headerAt w) rest cycle := by
  rw [reader, parsed_of_syncAt ((syncAt_window hlen).trans hsync), headerAt_append_left hlen.ge, List.drop_left' hlen]

/-- Of any other window only the first byte is passed over (R81). -/
theorem reader_of_mismatch (hno : isSync w = false) : reader s (w ++ rest) cycle = reader s (w.tail ++ rest) cycle := by
  have hno := (syncAt_window (rest := rest) hlen).trans hno
  obtain ⟨b, w, rfl⟩ := List.exists_cons_of_length_eq_add_one hlen
  exact parsed_cons hno

end Window

/-- The rows that the Sink is still to get in a state without a cap, from what the block holds and what is still offered. -/
def undelivered (s : State) : List Transfer :=
  match s.phase with
  | .hunt => reader s (s.hb ++ s.source) s.cycleId
  | .payload => rowsAfterHeader (reader s) s.params (autoInc s) s.hdr (s.pb ++ s.source) s.cycleId
  | .emit => (rowsOf s.curCycle s.obj s.sig).drop s.emitIdx ++ reader s s.source s.cycleId
  | .halt => []

theorem undelivered_of_hunt (h : s.phase = .hunt) : undelivered s = reader s (s.hb ++ s.source) s.cycleId := by
  rw [undelivered, h]

theorem undelivered_of_payload (h : s.phase = .payload) :
    undelivered s = rowsAfterHeader (reader s) s.params (autoInc s) s.hdr (s.pb ++ s.source) s.cycleId := by
  rw [undelivered, h]

theorem undelivered_of_emit (h : s.phase = .emit) :
    undelivered s = (rowsOf s.curCycle s.obj s.sig).drop s.emitIdx ++ reader s s.source s.cycleId := by
  rw [undelivered, h]

theorem undelivered_of_halt (h : s.phase = .halt) : undelivered s = [] := by rw [undelivered, h]

/-! ### A packet's last step (R88, R97, R99) -/

theorem reader_commitRecord (os : List ObjRec) (gs : List SigRec) (sh ov : Bool) (s : State) :
    reader (commitRecord os gs sh ov s) = reader s := by
  rw [reader, commitRecord_params, autoInc_congr (commitRecord_ctrl ..), reader]

/-- A commit leaves its rows to be delivered, under the cycle id of before, and then the stream, under the next one. -/
theorem undelivered_applyCommit (hhb : s.hb = []) (os : List ObjRec) (gs : List SigRec) (sh ov : Bool) :
    undelivered (applyCommit os gs sh ov s) =
      rowsOf s.cycleId os gs ++ reader s s.source (nextCycle (autoInc s) s.cycleId) := by
  have hrest : reader (commitRecord os gs sh ov s) (commitRecord os gs sh ov s).source (commitRecord os gs sh ov s).cycleId =
      reader s s.source (nextCycle (autoInc s) s.cycleId) := by
    rw [reader_commitRecord, commitRecord_source, commitRecord_cycleId, nextCycle]
  rcases applyCommit_cases os gs sh ov s with ⟨-, heq⟩ | ⟨hnone, heq⟩ <;> rw [heq, ← hrest]
  · rw [undelivered_of_emit rfl, ← commitRecord_curCycle s os gs sh ov]
    rfl
  · rw [undelivered_of_hunt rfl, clearEmission_hb, commitRecord_hb, hhb, rowsOf_eq_nil hnone]
    rfl

theorem undelivered_finishPacket (hhb : s.hb = []) :
    undelivered (finishPacket s) =
      rowsAfterPayload (reader s) (autoInc s) (tlvLoop (loopEnv s)) s.source s.cycleId := by
  cases hexit : (tlvLoop (loopEnv s)).exit with
  | running => exact absurd hexit (tlvLoop_exits _)
  | discarded i t len =>
    rw [finishPacket_of_discarded hexit, rowsAfterPayload_of_discarded hexit]
    exact undelivered_of_hunt rfl
  | committed =>
    rw [finishPacket_of_committed hexit, rowsAfterPayload_of_committed hexit]
    exact undelivered_applyCommit hhb _ _ _ _

/-! ### One byte (R77 to R84, R88) -/

/-- The length check discards the packet, has its payload collected, or finishes it when it has none. -/
theorem undelivered_checkLength (hhb : s.hb = []) :
    undelivered (checkLength s) = rowsAfterHeader (reader s) s.params (autoInc s) s.hdr s.source s.cycleId := by
  rcases checkLength_cases s with ⟨hbad, heq⟩ | ⟨hok, heq⟩ <;> rw [heq]
  · rw [rowsAfterHeader_of_bad ((lengthBad_iff s).1 hbad)]
    exact undelivered_of_hunt rfl
  · rcases acceptHeader_cases s with ⟨h40, heq⟩ | ⟨-, heq⟩ <;> rw [heq]
    · have hgood := mt (lengthBad_iff s).2 (by simp [hok])
      have hwhole := rowsAfterHeader_of_whole (next := reader s) (auto := autoInc s) (rest := s.source) (cycle := s.cycleId)
        hgood (payload := []) (by rw [h40]; rfl)
      rw [List.nil_append] at hwhole
      rw [hwhole]
      exact undelivered_finishPacket (s := { s with pb := [] }) hhb
    · exact undelivered_of_payload rfl

/-- The byte goes from the stream to the window; what the window holds is read as the stream is. -/
theorem undelivered_takeHeaderByte (hp : s.phase = .hunt) (hcap : s.resyncLimit = 0#32) :
    undelivered (takeHeaderByte b s) = reader s (s.hb ++ b :: s.source) s.cycleId := by
  rw [List.append_cons]
  rcases takeHeaderByte_cases b s with ⟨-, heq⟩ | ⟨hlen, hsync, heq⟩ | ⟨hlen, hno, heq⟩ <;> rw [heq]
  · exact undelivered_of_hunt hp
  · rw [reader_of_match (by simp [hlen]) hsync]
    exact undelivered_checkLength rfl
  · have hbelow : ¬capReached (shifted (pushHb b s)) = true := fun h => ((capReached_iff _).1 h).1 hcap
    rw [shiftWindow_eq, checkCap_of_not_reached hbelow, reader_of_mismatch (by simp [hlen]) hno]
    exact undelivered_of_hunt hp

/-- The byte goes from the stream to the payload buffer, and the last one finishes the packet. -/
theorem undelivered_takePayloadByte (hp : s.phase = .payload) (hhb : s.hb = []) (hpb : s.pb.length < s.hdr.pktLen.toNat - 40)
    (hmax : s.hdr.pktLen.toNat - 40 ≤ s.params.payloadMax) :
    undelivered (takePayloadByte b s) =
      rowsAfterHeader (reader s) s.params (autoInc s) s.hdr (s.pb ++ b :: s.source) s.cycleId := by
  rw [List.append_cons]
  rcases takePayloadByte_cases b s with ⟨-, heq⟩ | ⟨hlast, heq⟩ <;> rw [heq]
  · exact undelivered_of_payload hp
  · rw [rowsAfterHeader_of_whole (by omega) (by rw [List.length_append]; exact hlast)]
    exact undelivered_finishPacket (s := pushPb b s) hhb

/-! ### One row (R101, R102) -/

theorem undelivered_transferRow (hp : s.phase = .emit) (hhb : s.hb = []) (hn : s.emitN = min s.obj.length s.sig.length)
    (hidx : s.emitIdx < s.emitN) : undelivered s = currentTransfer s :: undelivered (transferRow s) := by
  rw [undelivered_of_emit hp, rowsOf_drop_emitIdx hn hidx, List.cons_append]
  by_cases hlast : s.emitIdx + 1 = s.emitN
  · have hnone : (rowsOf s.curCycle s.obj s.sig).drop (s.emitIdx + 1) = [] :=
      List.drop_of_length_le (by rw [rowsOf_length]; omega)
    rw [transferRow_of_last hlast, undelivered_of_hunt rfl, hnone]
    change _ = _ :: reader s (s.hb ++ s.source) s.cycleId
    rw [hhb, List.nil_append, List.nil_append]
  · rw [transferRow_of_more hlast, undelivered_of_emit (s := rowTaken s) hp]
    rfl

/-! ### The Source and Sink steps (R75, R140) -/

theorem turn_of_step {a : Turn} (h : step { s with schedule := a :: s.schedule } = .next t) : turn a s = t := by
  rw [turn, h]

theorem settle_of_source (hready : inReady s = true) (hsrc : s.source = b :: bs)
    (h : step { s with schedule := .source :: s.schedule } = .next t) (n : Nat) :
    settle true (n + 1) s = settle true n t := by
  rw [settle, if_pos (by simp [hready, hsrc]), turn_of_step h]

theorem settle_of_sink (hp : s.phase = .emit) (h : step { s with schedule := .sink :: s.schedule } = .next t) (n : Nat) :
    settle true (n + 1) s = settle true n t := by
  rw [settle, if_neg (by simp [inReady, hp]), if_pos (by simp [outValid, hp]), turn_of_step h]

theorem settle_of_rest (hin : inReady s = false ∨ s.source = []) (hout : s.phase ≠ .emit) (n : Nat) :
    settle true n s = s := by
  cases n with
  | zero => rfl
  | succ n => rw [settle, if_neg (by rcases hin with h | h <;> simp [h]), if_neg (by simp [outValid, hout])]

/-- A state from which a stream is read: the invariant holds, input is on, and there is no cap (R105). -/
structure Reading (s : State) : Prop where
  inv : StateInv s
  enabled : enabled s = true
  noCap : s.resyncLimit = 0#32

theorem Reading.of_keeps (h : Reading s) (hkeep : KeepsConfiguration s t) (hinv : StateInv t) : Reading t :=
  ⟨hinv, (enabled_congr hkeep.ctrl).trans h.enabled, hkeep.resyncLimit.trans h.noCap⟩

/-- The first Source or Sink step leads from `s` to `t`, and with it the reading of the stream goes on: no row is lost or
made up, and a byte or a row less is left. -/
structure ReadsOn (s t : State) : Prop where
  settle : ∀ n, settle true (n + 1) s = settle true n t
  reading : Reading t
  rows : t.dataset ++ undelivered t = s.dataset ++ undelivered s
  less : Prod.Lex (· < ·) (· < ·) (t.source.length, t.emitN - t.emitIdx) (s.source.length, s.emitN - s.emitIdx)

theorem Reading.readsOn_headerByte (h : Reading s) (hp : s.phase = .hunt) (hsrc : s.source = b :: bs) :
    ReadsOn s (takeHeaderByte b { s with source := bs }) where
  settle := settle_of_source (inReady_of_hunt h.enabled hp) hsrc
    (Eq.trans (step_source_hunt rfl hsrc h.enabled hp) (exec_byteInHunt h.enabled hp))
  reading :=
    have hkeep := (packetFrame_takeHeaderByte b { s with source := bs }).toKeepsConfiguration
    Reading.of_keeps (s := { s with source := bs }) ⟨h.inv, h.enabled, h.noCap⟩ hkeep
      (stateInv_takeHeaderByte (s := { s with source := bs }) h.inv hp b)
  rows := by
    rw [takeHeaderByte_dataset, undelivered_of_hunt hp, hsrc,
      undelivered_takeHeaderByte (s := { s with source := bs }) hp h.noCap]
    rfl
  less := by
    rw [(packetFrame_takeHeaderByte b { s with source := bs }).source, hsrc]
    exact .left _ _ (Nat.lt_succ_self _)

theorem Reading.readsOn_payloadByte (h : Reading s) (hp : s.phase = .payload) (hsrc : s.source = b :: bs) :
    ReadsOn s (takePayloadByte b { s with source := bs }) where
  settle := settle_of_source (inReady_of_payload h.enabled hp) hsrc
    (Eq.trans (step_source_payload rfl hsrc h.enabled hp) (exec_byteInPayload h.enabled hp))
  reading :=
    have hkeep := (packetFrame_takePayloadByte b { s with source := bs }).toKeepsConfiguration
    Reading.of_keeps (s := { s with source := bs }) ⟨h.inv, h.enabled, h.noCap⟩ hkeep
      (stateInv_takePayloadByte (s := { s with source := bs }) h.inv hp b)
  rows := by
    obtain ⟨-, -, hpay, -⟩ := h.inv
    obtain ⟨hhb, hpb, hmax, -⟩ := hpay hp
    rw [takePayloadByte_dataset, undelivered_of_payload hp, hsrc,
      undelivered_takePayloadByte (s := { s with source := bs }) hp hhb hpb hmax]
    rfl
  less := by
    rw [(packetFrame_takePayloadByte b { s with source := bs }).source, hsrc]
    exact .left _ _ (Nat.lt_succ_self _)

theorem Reading.readsOn_row (h : Reading s) (hp : s.phase = .emit) : ReadsOn s (transferRow s) := by
  obtain ⟨-, -, -, hemit, -⟩ := h.inv
  obtain ⟨hhb, -, hn, -, hidx, -⟩ := hemit hp
  have hkeep := (packetFrame_transferRow s).toKeepsConfiguration
  refine ⟨settle_of_sink hp ?step, h.of_keeps hkeep (stateInv_transferRow h.inv hp), ?rows, ?less⟩
  case step => exact Eq.trans (step_sink_emit rfl hp) (exec_rowOut hp)
  case rows =>
    rw [transferRow_dataset, undelivered_transferRow hp hhb hn hidx, List.append_assoc]
    rfl
  case less =>
    rw [hkeep.source]
    refine .right _ ?_
    by_cases hlast : s.emitIdx + 1 = s.emitN
    · rw [transferRow_of_last hlast, clearEmission_emitN]
      omega
    · rw [transferRow_of_more hlast, rowTaken]
      dsimp only
      omega

/-- A Source or Sink step reads on, or none is enabled and no row is left to deliver. -/
theorem Reading.rest_or_readsOn (h : Reading s) :
    ((∀ n, Machine.settle true n s = s) ∧ undelivered s = []) ∨ ∃ t, ReadsOn s t := by
  obtain ⟨-, hhunt, hpay, -⟩ := h.inv
  cases hp : s.phase with
  | emit => exact .inr ⟨_, h.readsOn_row hp⟩
  | halt => exact .inl ⟨settle_of_rest (.inl (by simp [inReady, hp])) (by simp [hp]), undelivered_of_halt hp⟩
  | hunt =>
    cases hsrc : s.source with
    | cons b bs => exact .inr ⟨_, h.readsOn_headerByte hp hsrc⟩
    | nil =>
      obtain ⟨hhb, -⟩ := hhunt hp
      refine .inl ⟨settle_of_rest (.inr hsrc) (by simp [hp]), ?_⟩
      rw [undelivered_of_hunt hp, hsrc, List.append_nil]
      exact parsed_of_short (Nat.lt_succ_of_le hhb)
  | payload =>
    cases hsrc : s.source with
    | cons b bs => exact .inr ⟨_, h.readsOn_payloadByte hp hsrc⟩
    | nil =>
      obtain ⟨-, hpb, hmax, -⟩ := hpay hp
      refine .inl ⟨settle_of_rest (.inr hsrc) (by simp [hp]), ?_⟩
      rw [undelivered_of_payload hp, hsrc, List.append_nil]
      exact rowsAfterHeader_of_cut (by omega) hpb

/-- The steps come to rest with every row delivered. -/
theorem Reading.settle_dataset {s : State} (h : Reading s) :
    ∃ k, ∀ n, k ≤ n → (Machine.settle true n s).dataset = s.dataset ++ undelivered s := by
  rcases h.rest_or_readsOn with ⟨hrest, hnone⟩ | ⟨t, ht⟩
  · exact ⟨0, fun n _ => by rw [hrest, hnone, List.append_nil]⟩
  · obtain ⟨k, hk⟩ := ht.reading.settle_dataset
    refine ⟨k + 1, fun n hn => ?_⟩
    obtain ⟨m, rfl⟩ := Nat.exists_eq_add_of_le' (show 1 ≤ n by omega)
    rw [ht.settle, hk m (by omega), ht.rows]
termination_by (s.source.length, s.emitN - s.emitIdx)
decreasing_by exact ht.less

/-- Settles O33: in HUNT with an empty window, the rows still to come are those of the offered stream. -/
theorem datasetIsTheParsedStream : Obligations.DatasetIsTheParsedStream := by
  intro s hinv hp hhb he hcap
  obtain ⟨k, hk⟩ := Reading.settle_dataset ⟨hinv, he, hcap⟩
  refine ⟨k, fun n hn => ?_⟩
  rw [hk n hn, undelivered_of_hunt hp, hhb]
  rfl

end Sys2Proof.Machine
end

section
/-! PROOF. The host port's reads and writes (spec R107 to R111) and the commands (R112 to R116): a register stands at each mapped
address, so a read or a write at an address is that of its register; the fields of a written word are its low bits. -/

namespace Sys2Proof.Machine

/-! ### The register at an address (R26) -/

/-- A register stands every four bytes, in the order of the table. -/
theorem regTable_addr_toNat : ∀ k : Fin regTable.length, regTable[k].addr.toNat = 4 * k := by decide

theorem exists_addr_eq {a : Addr} (halign : a.toNat % 4 = 0) (hmapped : a.toNat < 0x80) : ∃ r : Reg, r.addr = a := by
  have hk : a.toNat / 4 < regTable.length := show a.toNat / 4 < 32 by omega
  have hat : regTable[a.toNat / 4].addr.toNat = 4 * (a.toNat / 4) := regTable_addr_toNat ⟨a.toNat / 4, hk⟩
  exact ⟨regTable[a.toNat / 4], BitVec.eq_of_toNat_eq (by omega)⟩

/-- No two registers share an address: the register at it is one. -/
theorem addr_injective : Function.Injective Reg.addr := fun r q h => by
  simpa [regAt_addr] using congrArg regAt h

/-! ### A read (R107) -/

theorem exec_regRead_addr (r : Reg) (s : State) :
    exec (.regRead r.addr) s = .next { s with hostResp := .read (readReg s r) false } := by
  simp only [exec, execRegRead, readAt, regAt_addr]
  rfl

theorem exec_regRead_of_bad {a : Addr} (h : badAddr a = true) (s : State) :
    exec (.regRead a) s = .next { s with hostResp := .read 0#32 true } := by
  simp only [exec, execRegRead, readAt, regAt_bad h]
  rfl

/-- Bit 3 is the one that LAST_OUTCOME masks of its seven (R35). -/
theorem getLsbD_readReg_lastOutcome_of_ne (s : State) {i : Nat} (hi : i < 7) (h3 : i ≠ 3) :
    (readReg s .lastOutcome).getLsbD i = s.lastOutcome.getLsbD i := by
  have hmask : ∀ i < 7, i ≠ 3 → (0x77#7).getLsbD i = true := by decide
  simp only [readReg, outcomeWord, BitVec.getLsbD_setWidth, BitVec.getLsbD_and, hmask i hi h3, Bool.and_true,
    decide_eq_true (show i < 32 by omega), Bool.true_and]

/-- Settles O34: the register at each address, the read there, the written map as the table with its addresses, and the values
that are not stored as they are read. -/
theorem regReadAnswers : Obligations.RegReadAnswers := by
  refine ⟨fun a halign hmapped => ?mapped, exec_regRead_addr, ?map, fun a s h => ?bad, fun s => ?values⟩
  case mapped =>
    obtain ⟨r, hr⟩ := exists_addr_eq halign hmapped
    exact ⟨r, hr, fun q hq => addr_injective (hq.trans hr.symm)⟩
  case map =>
    change ∀ p ∈ regTable.map (fun r => (r.addr, r)), _
    exact List.forall_mem_map.2 fun r _ => ⟨rfl, exec_regRead_addr r⟩
  case bad => exact exec_regRead_of_bad ((badAddr_iff a).2 h) s
  case values =>
    have hlo : Config.magic.extractLsb' 0 32 = 0x03040102#32 := by decide
    have hhi : Config.magic.extractLsb' 32 32 = 0x07080506#32 := by decide
    have hctrl : (readReg s .ctrl).toNat = s.ctrl.toNat := BitVec.toNat_setWidth_of_le (by decide)
    have hevents : (readReg s .events).toNat = s.events.toNat := BitVec.toNat_setWidth_of_le (by decide)
    have hirqEn : (readReg s .irqEn).toNat = s.irqEn.toNat := BitVec.toNat_setWidth_of_le (by decide)
    exact ⟨rfl, rfl, hlo, hhi, rfl, rfl, hctrl, hevents, hirqEn, rfl, rfl, rfl, rfl, rfl, rfl,
      fun _ => getLsbD_readReg_lastOutcome_of_ne s,
      rfl, rfl, rfl, rfl, rfl, rfl, rfl, rfl, rfl, rfl, rfl, rfl, rfl, rfl, rfl⟩

/-! ### A write (R108) -/

theorem exec_regWrite_addr (r : Reg) (d : Word) (s : State) :
    exec (.regWrite r.addr d) s = .next (answerWrite false (writeReg r d s)) := by
  simp only [exec, execRegWrite, regAt_addr]

theorem exec_regWrite_of_bad {a : Addr} (h : badAddr a = true) (d : Word) (s : State) :
    exec (.regWrite a d) s = .next (answerWrite true s) := by
  simp only [exec, execRegWrite, regAt_bad h]

theorem exec_regWrite_of_readOnly {r : Reg} (h : r.access = .ro) (d : Word) (s : State) :
    exec (.regWrite r.addr d) s = .next (answerWrite false s) := by
  rw [exec_regWrite_addr, writeReg_of_readOnly h]

/-- The mapped addresses besides the six of the writable registers are those whose writes stay REG_WRITE (R108). -/
theorem regWrite_wellFormed {a : Addr} (halign : a.toNat % 4 = 0) (hmapped : a.toNat < 0x80)
    (hother : a.toNat ∉ [0x00, 0x04, 0x0C, 0x10, 0x14, 0x18]) (d : Word) : Instr.wellFormed (.regWrite a d) = true := by
  simp only [Instr.wellFormed, mappedAddr, halign, hmapped, hother, not_false_eq_true, decide_true, Bool.and_self]

/-- Settles O37: the write of each writable register is its row's, a read-only register ignores it, and a bad address is
refused. -/
theorem regWriteDispatches : Obligations.RegWriteDispatches := by
  intro d s
  have hcmd : exec (.regWrite Reg.cmd.addr d) s = exec (decodeCmd d).toInstr s := by
    rw [exec_regWrite_addr, exec_toInstr]
    rfl
  exact ⟨exec_regWrite_addr .ctrl d s, hcmd, exec_regWrite_addr .events d s, exec_regWrite_addr .irqEn d s,
    exec_regWrite_addr .cycleId d s, exec_regWrite_addr .resyncLimit d s,
    fun _ hro => exec_regWrite_of_readOnly hro d s,
    fun _ halign hmapped hother => exec_regWrite_of_wellFormed s (regWrite_wellFormed halign hmapped hother d),
    fun a h => exec_regWrite_of_bad ((badAddr_iff a).2 h) d s⟩

/-! ### The written fields (R109, R110) -/

/-- A register that takes the low bits of a word reads back as the word with the other bits 0. -/
theorem setWidth_extractLsb'_zero (d : Word) {n : Nat} (h : n ≤ 32) :
    (d.extractLsb' 0 n).setWidth 32 = d &&& BitVec.ofNat 32 (2 ^ n - 1) := by
  have hpow : 2 ^ n ≤ 2 ^ 32 := Nat.pow_le_pow_right (by decide) h
  have hpos : 0 < 2 ^ n := Nat.two_pow_pos n
  refine BitVec.eq_of_toNat_eq ?_
  rw [BitVec.toNat_setWidth_of_le h, BitVec.toNat_and, BitVec.toNat_ofNat,
    Nat.mod_eq_of_lt (show 2 ^ n - 1 < 2 ^ 32 by omega), Nat.and_two_pow_sub_one_eq_mod, BitVec.extractLsb'_toNat,
    Nat.shiftRight_zero]

/-- Settles O39: EN and AUTOINC are the two bits the write takes. -/
theorem ctrlWriteSetsTwoBits : Obligations.CtrlWriteSetsTwoBits := by
  intro d s
  have hen : enabled (writeCtrl d s) = d.getLsbD 0 := by simp [enabled]
  have hauto : autoInc (writeCtrl d s) = d.getLsbD 1 := by simp [autoInc]
  refine ⟨answerWrite false (writeCtrl d s), rfl, rfl, hen, hauto, setWidth_extractLsb'_zero d (by decide), ?_⟩
  rw [← hen]
  exact inReady_eq_true_iff _

theorem Event.bit_lt (e : Event) : e.bit < 9 := by cases e <;> decide

/-- Every bit of EVENTS and IRQ_EN is an event's (R30). -/
theorem Event.exists_bit_eq {i : Nat} (h : i < 9) : ∃ e : Event, e.bit = i := by
  have hbits : [Event.frame, .syncFail, .tlvBad, .lenBad, .desync, .trunc, .short, .ovf, .cmdErr].map Event.bit
      = List.range 9 := rfl
  obtain ⟨e, -, he⟩ := List.mem_map.1 (hbits ▸ List.mem_range.2 h)
  exact ⟨e, he⟩

/-- `irq` in terms of events instead of bits (R119). -/
theorem irq_eq_true_iff_event (s : State) :
    irq s = true ↔ ∃ e : Event, pending s e = true ∧ s.irqEn.getLsbD e.bit = true := by
  rw [irq_eq_true_iff]
  constructor
  · rintro ⟨i, hi, hpending, henabled⟩
    obtain ⟨e, rfl⟩ := Event.exists_bit_eq hi
    exact ⟨e, hpending, henabled⟩
  · rintro ⟨e, hpending, henabled⟩
    exact ⟨e.bit, e.bit_lt, hpending, henabled⟩

theorem getLsbD_writeIrqEn_irqEn (d : Word) (s : State) (e : Event) :
    (writeIrqEn d s).irqEn.getLsbD e.bit = d.getLsbD e.bit := by
  simp [e.bit_lt]

/-- Settles O40: each write sets its own field, and the interrupt line follows the two fields. -/
theorem eventAndMaskWrites : Obligations.EventAndMaskWrites := by
  refine ⟨fun d s => ?events, fun d s => ?mask⟩
  case events =>
    exact ⟨answerWrite false (writeEvents d s), rfl, rfl, pending_writeEvents d s, irq_eq_true_iff_event _⟩
  case mask =>
    refine ⟨answerWrite false (writeIrqEn d s), rfl, rfl, setWidth_extractLsb'_zero d (by decide), ?_⟩
    simp only [← getLsbD_writeIrqEn_irqEn d s]
    exact irq_eq_true_iff_event _

/-- Settles O41: each write is the update of its own register. -/
theorem cycleAndLimitWrites : Obligations.CycleAndLimitWrites := fun _ _ => ⟨rfl, rfl⟩

/-! ### The commands (R112 to R116) -/

/-- Settles O42. -/
theorem nopHasNoEffect : Obligations.NopHasNoEffect := exec_toInstr .nop

section Phase
variable {s : State}

theorem abortPacket_of_hunt (h : s.phase = .hunt) : abortPacket s = { s with hb := [], resyncCnt := 0#32 } := by
  simp only [abortPacket, h]

theorem abortPacket_of_payload (h : s.phase = .payload) :
    abortPacket s = { recordOutcome outcomeAbort s with pb := [], phase := .hunt, resyncCnt := 0#32 } := by
  simp only [abortPacket, h]

theorem abortPacket_of_emit (h : s.phase = .emit) : abortPacket s = s := by simp only [abortPacket, h]

theorem abortPacket_of_halt (h : s.phase = .halt) :
    abortPacket s = { s with hb := [], resyncCnt := 0#32, phase := .hunt } := by
  simp only [abortPacket, h]

theorem restartSearch_of_halt (h : s.phase = .halt) : restartSearch s = { s with phase := .hunt, resyncCnt := 0#32 } := by
  rw [restartSearch, if_pos h]

theorem restartSearch_of_not_halt (h : s.phase ≠ .halt) : restartSearch s = { s with resyncCnt := 0#32 } := by
  rw [restartSearch, if_neg h]

end Phase

theorem exec_abort (s : State) : exec .abort s = .next (answerWrite false (abortPacket s)) := exec_toInstr .abort s

/-- Settles O43, phase by phase. -/
theorem abortByPhase : Obligations.AbortByPhase := by
  intro s
  rw [exec_abort]
  refine ⟨fun h => ?hunt, fun h => ?payload, fun h => ?emit, fun h => ?halt⟩
  case hunt => rw [abortPacket_of_hunt h]; rfl
  case payload => rw [abortPacket_of_payload h]; rfl
  case emit => rw [abortPacket_of_emit h]; rfl
  case halt => rw [abortPacket_of_halt h]; rfl

theorem exec_restart (s : State) : exec .restart s = .next (answerWrite false (restartSearch s)) :=
  exec_toInstr .restart s

/-- Settles O44: the way out of HALT, and the phase that stays. -/
theorem restartLeavesHaltAndClearsTheCount : Obligations.RestartLeavesHaltAndClearsTheCount := by
  intro s
  rw [exec_restart]
  refine ⟨fun h => ?halt, fun h => ?other⟩
  case halt => rw [restartSearch_of_halt h]; rfl
  case other => rw [restartSearch_of_not_halt h]; rfl

/-- Settles O45. -/
theorem clearStatsClearsThreeCounters : Obligations.ClearStatsClearsThreeCounters := exec_toInstr .clearStats

/-- Settles O46: the reset that RESET shares writes every field of the core but the configuration registers. -/
theorem softResetKeepsTheConfiguration : Obligations.SoftResetKeepsTheConfiguration := exec_toInstr .softReset

end Sys2Proof.Machine
end

section
/-! PROOF. No condition stops the block (spec R11, R118): every operation has a next state from every state, and no port carries
bytes that the decoder rejects. -/

namespace Sys2Proof.Machine

/-- No operation faults or is refused. One that finds its port not ready (R85, R101) or a bad address (R50, R51) answers as well,
with its own next state. -/
theorem exists_exec_eq_next (i : Instr) (s : State) : ∃ t, exec i s = .next t := by
  cases i with
  | byteInHunt b | byteInPayload b | rowOut => exact ⟨_, (apply_ite Host.Outcome.next _ _ _).symm⟩
  | regWrite a d =>
    cases hr : regAt a with
    | none => exact ⟨answerWrite true s, by simp only [exec, execRegWrite, hr]⟩
    | some r => exact ⟨answerWrite false (writeReg r d s), by simp only [exec, execRegWrite, hr]⟩
  | _ => exact ⟨_, rfl⟩

/-- Settles O52: a turn without a transfer passes, and what a port carries is an operation's, which the step runs. -/
theorem everyStepGoesOn : Obligations.EveryStepGoesOn := by
  intro s
  cases hw : fetch s with
  | none => exact ⟨passTurn s, step_of_fetch_none hw⟩
  | some w =>
    obtain ⟨i, hi⟩ := Laws.fetch_decodes hw
    rw [step_of_decode hw hi]
    exact exists_exec_eq_next i (consume s)

end Sys2Proof.Machine
end

section
/-! PROOF. What the block rests on between packets (spec R44, R129, R132, R134, R141): the whole next state of RESET, what is
frozen while the input is off, what is stable outside the input phases, and the end of a run. -/

namespace Sys2Proof.Machine

variable {s t : State}

/-! ### Reset (R129) -/

/-- RESET is SOFT_RESET's datapath reset and the reset of the configuration besides. -/
theorem exec_reset (s : State) : exec .reset s = .next (resetConfiguration (resetDatapath s)) := rfl

/-- Settles O48: the two resets share the datapath's, so only the configuration tells them apart. -/
theorem resetFromAnyState : Obligations.ResetFromAnyState :=
  fun s => ⟨_, _, exec_reset s, exec_toInstr .softReset s, rfl, rfl⟩

/-! ### The input is off (R132) -/

theorem inReady_of_disabled (h : enabled s = false) : inReady s = false := by simp [inReady, h]

/-- A row transfer writes the emission's fields only (R101, R102). -/
theorem transferRow_frame (s : State) :
    transferRow s = { s with
      rowCnt := (transferRow s).rowCnt, phase := (transferRow s).phase, obj := (transferRow s).obj
      sig := (transferRow s).sig, emitN := (transferRow s).emitN, emitIdx := (transferRow s).emitIdx
      dataset := (transferRow s).dataset } := by
  obtain ⟨u, rfl, ⟨-, h⟩ | ⟨-, h⟩⟩ := transferRow_cases s
  · rw [h]
    rfl
  · rw [h]

/-- Settles O58: the Source finds its port not ready, and the Sink's turn is a row transfer or passes. -/
theorem disabledInputFreezesOutcomes : Obligations.DisabledInputFreezesOutcomes := by
  intro s t a ts hen hs hhost hreset h
  cases a with
  | source =>
    rw [step_source_of_not_inReady hs (inReady_of_disabled hen)] at h
    cases h
    rfl
  | sink =>
    by_cases hp : s.phase = .emit
    · rw [step_sink_emit hs hp, exec_rowOut (by exact hp)] at h
      cases h
      exact transferRow_frame { s with schedule := ts }
    · rw [step_sink_not_emit hs hp] at h
      cases h
      rfl
  | host => exact absurd rfl hhost
  | reset => exact absurd rfl hreset

/-! ### The packet diagnostics (R134) -/

/-- The registers that say how the last packet went (R35 to R39). -/
structure Diagnostics where
  lastOutcome : BitVec 7
  lastObjLen : Word
  lastSigLen : Word
  lastRows : Word
  lastCycle : Word
  hdr : Header
  badTlvIndex : Word
  badTlvType : Word
  badTlvLen : Word

/-- The diagnostics a state shows. -/
def diagnostics (s : State) : Diagnostics :=
  ⟨s.lastOutcome, s.lastObjLen, s.lastSigLen, s.lastRows, s.lastCycle, s.hdr, s.badTlvIndex, s.badTlvType, s.badTlvLen⟩

theorem diagnostics_eq_iff :
    diagnostics t = diagnostics s ↔
      t.lastOutcome = s.lastOutcome ∧ t.lastObjLen = s.lastObjLen ∧ t.lastSigLen = s.lastSigLen ∧
      t.lastRows = s.lastRows ∧ t.lastCycle = s.lastCycle ∧ t.hdr = s.hdr ∧ t.badTlvIndex = s.badTlvIndex ∧
      t.badTlvType = s.badTlvType ∧ t.badTlvLen = s.badTlvLen := by
  rw [diagnostics, diagnostics, Diagnostics.mk.injEq]

theorem diagnostics_transferRow (s : State) : diagnostics (transferRow s) = diagnostics s := by
  rw [transferRow_frame]
  rfl

/-- In PAYLOAD an ABORT records its outcome; in the other phases it does not (R113). -/
theorem diagnostics_abortPacket (hp : s.phase ≠ .payload) : diagnostics (abortPacket s) = diagnostics s := by
  cases h : s.phase with
  | hunt => rw [abortPacket_of_hunt h]; rfl
  | payload => exact absurd h hp
  | emit => rw [abortPacket_of_emit h]
  | halt => rw [abortPacket_of_halt h]; rfl

theorem diagnostics_runCommand {c : CmdOp} (hp : s.phase ≠ .payload) (hc : c ≠ .softReset) :
    diagnostics (runCommand c s) = diagnostics s := by
  cases c with
  | abort => exact diagnostics_abortPacket hp
  | softReset => exact absurd rfl hc
  | nop | restart | clearStats | illegal w => rfl

theorem HostEffect.diagnostics_eq {i : Instr} (h : HostEffect s i t) (hp : s.phase ≠ .payload) (hi : i ≠ .softReset) :
    diagnostics t = diagnostics s := by
  cases h with
  | answer | ctrl | events | irqEn | cycleId | resyncLimit => rfl
  | command c => exact diagnostics_runCommand hp fun hc => hi (congrArg CmdOp.toInstr hc)

/-- Outside HUNT and PAYLOAD no packet is under way, so only the two resets write what the last one left. -/
theorem StepEffect.diagnostics_eq {o : Option Instr} (h : StepEffect s o t) (hp : s.phase = .emit ∨ s.phase = .halt)
    (hsoft : o ≠ some .softReset) (hreset : o ≠ some .reset) : diagnostics t = diagnostics s := by
  cases h with
  | idle => rfl
  | headerByte b bs ts hts hbs hen hph | payloadByte b bs ts hts hbs hen hph => simp [hph] at hp
  | row ts hph => exact diagnostics_transferRow _
  | reset ts => exact absurd rfl hreset
  | host ts ops heff =>
    have hpayload : s.phase ≠ .payload := by rcases hp with hp | hp <;> simp [hp]
    exact heff.diagnostics_eq hpayload fun hi => hsoft (congrArg some hi)

/-- Settles O59: an idle step writes no register, and the transaction of any other is neither reset. -/
theorem diagnosticsStableOutsideInput : Obligations.DiagnosticsStableOutsideInput := by
  intro s t hp h hno
  refine diagnostics_eq_iff.1 ?_
  rcases step_effect_of_transaction h with heff | ⟨w, i, hw, hi, heff⟩
  · exact heff.diagnostics_eq hp nofun nofun
  · obtain ⟨hsoft, hreset⟩ := hno w hw
    rw [hi] at hsoft hreset
    exact heff.diagnostics_eq hp (fun ho => hsoft (congrArg _ (Option.some.inj ho)))
      fun ho => hreset (congrArg _ (Option.some.inj ho))

/-! ### The end of a run (R141) -/

/-- Settles O60: each transaction needs what the end of a run excludes: a byte and an input phase, phase EMIT, or an access. -/
theorem endOfRunLeavesOnlyReset : Obligations.EndOfRunLeavesOnlyReset := by
  rintro s ⟨hinput, hscript, hemit⟩ a ha
  refine Option.eq_none_iff_forall_ne_some.2 fun w hw => ?_
  rcases fetchTurn_cases hw with
    ⟨b, bs, -, hbs, -, hph, -⟩ | ⟨b, bs, -, hbs, -, hph, -⟩ | ⟨-, hph, -⟩ | ⟨x, ops, -, hops, -⟩ | ⟨rfl, -⟩
  · simp [hbs, hph] at hinput
  · simp [hbs, hph] at hinput
  · exact hemit hph
  · simp [hops] at hscript
  · exact ha rfl

end Sys2Proof.Machine
end
